-- ==== Sys2Proof/Word.lean ====
section
/-!
DEFINITION. The value types of the DCproject CORE (spec 00_scope.md rules R9 to R12): the control word, the number
domain `R`, Bits, the three-valued working-register type, waveform points and waveforms.
-/

namespace Sys2Proof

/-- A control word `CW`, 16 bits (30_encoding.md R71). -/
abbrev Word := BitVec 16

/-- The number domain of Sample, time and level: the exact rationals (00_scope.md R11). -/
abbrev R := Rat

/-- A Bit, "value in {0,1}" (00_scope.md R10): `false` is 0 and `true` is 1. -/
abbrev Bit := Bool

/-- The values {-1, 0, +1} of `pol`, `last`, `lastNZ`, `lastP`, `prev` and `cur` (00_scope.md R13). -/
inductive Sgn where
  | minus
  | zero
  | plus
deriving DecidableEq, Repr

/-- A WaveformPoint, "pair (time, level)" (00_scope.md R14, 10_state.md R26). -/
structure Point where
  time : R
  level : R
deriving DecidableEq, Repr

/-- A sequence of waveform points, element 0 the earliest (20_memory.md R51). -/
abbrev Wave := List Point

end Sys2Proof
end

