-- ==== Sys2Proof/Syntax.lean ====
section
/-!
DEFINITION. The commands of the DCproject CORE: the selector variants (30_encoding.md R72, R73), one constructor of
`Instr` per row of spec/opcode_table.json (R74, R75), and the command frame (10_state.md R22). No operand is packed
into the control word (R79): the operands of `PCM` and `DM` ride in the frame.
-/

namespace Sys2Proof

/-- The operations of field `OP` that are not reserved (30_encoding.md R72). -/
inductive Op where
  | enc
  | dec
  | analyze
  | pcm
  | dm
deriving DecidableEq, Repr

/-- EncodingScheme, field `SCHEME` (30_encoding.md R73). -/
inductive Scheme where
  | nrzl
  | nrzi
  | man
  | dman
  | ami
deriving DecidableEq, Repr

/-- ScrambleMode, field `SCR` (30_encoding.md R73). `plain` is the mode DCP calls None. -/
inductive Scramble where
  | plain
  | b8zs
  | hdb3
deriving DecidableEq, Repr

/-- The 15 commands of 30_encoding.md R74 and the 18 defined-failure encodings of R75. -/
inductive Instr where
  | pcm  -- PCM, 0x0004, R90
  | dm  -- DM, 0x0005, R93
  | encNrzl  -- ENC.NRZL, 0x0001, R111
  | encNrzi  -- ENC.NRZI, 0x0011, R112
  | encMan  -- ENC.MAN, 0x0021, R113
  | encDman  -- ENC.DMAN, 0x0031, R114
  | encAmi  -- ENC.AMI, 0x0041, R115
  | encAmiB8zs  -- ENC.AMI.B8ZS, 0x00C1, R131
  | encAmiHdb3  -- ENC.AMI.HDB3, 0x0141, R136
  | decNrzl  -- DEC.NRZL, 0x0002, R152
  | decNrzi  -- DEC.NRZI, 0x0012, R153
  | decMan  -- DEC.MAN, 0x0022, R154
  | decDman  -- DEC.DMAN, 0x0032, R155
  | decAmi  -- DEC.AMI, 0x0042, R156
  | analyze  -- ANALYZE, 0x0003, R170
  | encNrzlB8zs  -- ENC.NRZL.B8ZS, 0x0081, R203
  | encNrziB8zs  -- ENC.NRZI.B8ZS, 0x0091, R203
  | encManB8zs  -- ENC.MAN.B8ZS, 0x00A1, R203
  | encDmanB8zs  -- ENC.DMAN.B8ZS, 0x00B1, R203
  | encNrzlHdb3  -- ENC.NRZL.HDB3, 0x0101, R203
  | encNrziHdb3  -- ENC.NRZI.HDB3, 0x0111, R203
  | encManHdb3  -- ENC.MAN.HDB3, 0x0121, R203
  | encDmanHdb3  -- ENC.DMAN.HDB3, 0x0131, R203
  | decNrzlB8zs  -- DEC.NRZL.B8ZS, 0x0082, R204
  | decNrziB8zs  -- DEC.NRZI.B8ZS, 0x0092, R204
  | decManB8zs  -- DEC.MAN.B8ZS, 0x00A2, R204
  | decDmanB8zs  -- DEC.DMAN.B8ZS, 0x00B2, R204
  | decAmiB8zs  -- DEC.AMI.B8ZS, 0x00C2, R204
  | decNrzlHdb3  -- DEC.NRZL.HDB3, 0x0102, R204
  | decNrziHdb3  -- DEC.NRZI.HDB3, 0x0112, R204
  | decManHdb3  -- DEC.MAN.HDB3, 0x0122, R204
  | decDmanHdb3  -- DEC.DMAN.HDB3, 0x0132, R204
  | decAmiHdb3  -- DEC.AMI.HDB3, 0x0142, R204
deriving DecidableEq, Repr

/-- Every command, in the order of spec/opcode_table.json. -/
def Instr.all : List Instr :=
  [ .pcm, .dm, .encNrzl, .encNrzi, .encMan, .encDman, .encAmi, .encAmiB8zs, .encAmiHdb3, .decNrzl, .decNrzi, .decMan,
    .decDman, .decAmi, .analyze, .encNrzlB8zs, .encNrziB8zs, .encManB8zs, .encDmanB8zs, .encNrzlHdb3, .encNrziHdb3,
    .encManHdb3, .encDmanHdb3, .decNrzlB8zs, .decNrziB8zs, .decManB8zs, .decDmanB8zs, .decAmiB8zs, .decNrzlHdb3,
    .decNrziHdb3, .decManHdb3, .decDmanHdb3, .decAmiHdb3 ]

/-- The four operand registers of the command frame (10_state.md R22): `A_BPS`, `A_LO`, `A_HI`, `A_STEP`. -/
structure Args where
  bps : Nat
  lo : R
  hi : R
  step : R
deriving DecidableEq, Repr

/-- The command frame: the five values the host presents together (10_state.md R22, 30_encoding.md R70). -/
structure Frame where
  cw : Word
  args : Args
deriving DecidableEq, Repr

end Sys2Proof
end

