-- ==== Sys2Proof/Decode.lean ====
section
/-!
DEFINITION. Decoding of the control word (30_encoding.md R71 to R78), total on all 65536 words, rejecting by the name
of the test of R78 that fires; and the encoder, written from the tables of R74 and R75.
-/

namespace Sys2Proof

/-- Why a word is reserved: which of the tests 1 to 4 of 30_encoding.md R78 applies first. -/
inductive Reject where
  /-- Test 1: `CW[15:9] ≠ 0`. -/
  | nonzeroZeroField
  /-- Test 2: `OP = 0` or `OP >= 6`. -/
  | reservedOp
  /-- Test 3: `SCHEME >= 5` or `SCR = 3`. -/
  | reservedSelector
  /-- Test 4: `ANALYZE`, `PCM` or `DM` with `SCHEME ≠ 0` or `SCR ≠ 0`. -/
  | selectorNotZero
deriving DecidableEq, Repr

/-- `CW[3:0]` (R71). -/
def opField (w : Word) : BitVec 4 := w.extractLsb' 0 4

/-- `CW[6:4]` (R71). -/
def schemeField (w : Word) : BitVec 3 := w.extractLsb' 4 3

/-- `CW[8:7]` (R71). -/
def scrField (w : Word) : BitVec 2 := w.extractLsb' 7 2

/-- `CW[15:9]` (R71). -/
def zeroField (w : Word) : BitVec 7 := w.extractLsb' 9 7

/-- The codes of field `OP` (R72); `none` for the reserved ones. -/
def opOfCode (c : BitVec 4) : Option Op :=
  match c.toNat with
  | 1 => some .enc
  | 2 => some .dec
  | 3 => some .analyze
  | 4 => some .pcm
  | 5 => some .dm
  | _ => none

/-- The codes of field `SCHEME` (R73); `none` for the reserved ones. -/
def schemeOfCode (c : BitVec 3) : Option Scheme :=
  match c.toNat with
  | 0 => some .nrzl
  | 1 => some .nrzi
  | 2 => some .man
  | 3 => some .dman
  | 4 => some .ami
  | _ => none

/-- The codes of field `SCR` (R73); `none` for the reserved one. -/
def scrambleOfCode (c : BitVec 2) : Option Scramble :=
  match c.toNat with
  | 0 => some .plain
  | 1 => some .b8zs
  | 2 => some .hdb3
  | _ => none

/-- The ENC command of a scheme and a scramble mode (R74, R75). -/
def encCommand : Scheme → Scramble → Instr
  | .nrzl, .plain => .encNrzl
  | .nrzi, .plain => .encNrzi
  | .man, .plain => .encMan
  | .dman, .plain => .encDman
  | .ami, .plain => .encAmi
  | .ami, .b8zs => .encAmiB8zs
  | .ami, .hdb3 => .encAmiHdb3
  | .nrzl, .b8zs => .encNrzlB8zs
  | .nrzi, .b8zs => .encNrziB8zs
  | .man, .b8zs => .encManB8zs
  | .dman, .b8zs => .encDmanB8zs
  | .nrzl, .hdb3 => .encNrzlHdb3
  | .nrzi, .hdb3 => .encNrziHdb3
  | .man, .hdb3 => .encManHdb3
  | .dman, .hdb3 => .encDmanHdb3

/-- The DEC command of a scheme and a scramble mode (R74, R75). -/
def decCommand : Scheme → Scramble → Instr
  | .nrzl, .plain => .decNrzl
  | .nrzi, .plain => .decNrzi
  | .man, .plain => .decMan
  | .dman, .plain => .decDman
  | .ami, .plain => .decAmi
  | .nrzl, .b8zs => .decNrzlB8zs
  | .nrzi, .b8zs => .decNrziB8zs
  | .man, .b8zs => .decManB8zs
  | .dman, .b8zs => .decDmanB8zs
  | .ami, .b8zs => .decAmiB8zs
  | .nrzl, .hdb3 => .decNrzlHdb3
  | .nrzi, .hdb3 => .decNrziHdb3
  | .man, .hdb3 => .decManHdb3
  | .dman, .hdb3 => .decDmanHdb3
  | .ami, .hdb3 => .decAmiHdb3

/-- Test 4 of R78: a command without a scheme takes `SCHEME = 0` and `SCR = 0` only (R76). -/
def withoutSelector (scheme : Scheme) (scr : Scramble) (i : Instr) : Except Reject Instr :=
  if scheme = .nrzl ∧ scr = .plain then .ok i else .error .selectorNotZero

/-- Dispatch on legal fields (R78 tests 4 to 7; the defined failures of tests 5 and 6 are commands of their own,
R75, whose meaning is their failure). -/
def commandOf (op : Op) (scheme : Scheme) (scr : Scramble) : Except Reject Instr :=
  match op with
  | .enc => .ok (encCommand scheme scr)
  | .dec => .ok (decCommand scheme scr)
  | .analyze => withoutSelector scheme scr .analyze
  | .pcm => withoutSelector scheme scr .pcm
  | .dm => withoutSelector scheme scr .dm

/-- The decoding procedure of R78, tests in its order. -/
def decode (w : Word) : Except Reject Instr :=
  if zeroField w ≠ 0 then .error .nonzeroZeroField
  else
    match opOfCode (opField w) with
    | none => .error .reservedOp
    | some op =>
      match schemeOfCode (schemeField w), scrambleOfCode (scrField w) with
      | some scheme, some scr => commandOf op scheme scr
      | _, _ => .error .reservedSelector

/-- The control word of each command, from the tables of R74 and R75. -/
def encode : Instr → Word
  | .pcm => 0x0004
  | .dm => 0x0005
  | .encNrzl => 0x0001
  | .encNrzi => 0x0011
  | .encMan => 0x0021
  | .encDman => 0x0031
  | .encAmi => 0x0041
  | .encAmiB8zs => 0x00C1
  | .encAmiHdb3 => 0x0141
  | .decNrzl => 0x0002
  | .decNrzi => 0x0012
  | .decMan => 0x0022
  | .decDman => 0x0032
  | .decAmi => 0x0042
  | .analyze => 0x0003
  | .encNrzlB8zs => 0x0081
  | .encNrziB8zs => 0x0091
  | .encManB8zs => 0x00A1
  | .encDmanB8zs => 0x00B1
  | .encNrzlHdb3 => 0x0101
  | .encNrziHdb3 => 0x0111
  | .encManHdb3 => 0x0121
  | .encDmanHdb3 => 0x0131
  | .decNrzlB8zs => 0x0082
  | .decNrziB8zs => 0x0092
  | .decManB8zs => 0x00A2
  | .decDmanB8zs => 0x00B2
  | .decAmiB8zs => 0x00C2
  | .decNrzlHdb3 => 0x0102
  | .decNrziHdb3 => 0x0112
  | .decManHdb3 => 0x0122
  | .decDmanHdb3 => 0x0132
  | .decAmiHdb3 => 0x0142

/-- The instruction the decoder reads from a table word: `w` is the word's `nbits` low bits, every bit above them 0.
A number that does not fit `nbits`, or more bits than a control word has, names no word (log 15). -/
def decodeTableWord (nbits w : Nat) : Option Instr :=
  if nbits ≤ 16 ∧ w < 2 ^ nbits then
    match decode (BitVec.ofNat 16 w) with
    | .ok i => some i
    | .error _ => none
  else none

end Sys2Proof
end

