-- ==== Sys2Proof/Config.lean ====
section
/-!
DEFINITION. The implementation parameters of 00_scope.md R6 that a rule depends on. Only `NMAX` is one:
`REAL_REPR` and `BASE_MAP` have no rule that depends on them (93_implementation_defined.md U8, U9), `ROUND` and the
counter width are decided by the spec. The spec leaves no value of any command undefined, so there is no free value.
-/

namespace Sys2Proof

/-- What an implementation fixes. `nmax` is the capacity `NMAX` of each buffer in elements; `none` is unbounded
(00_scope.md R6, 92_eei_decisions.md D4). -/
structure Config where
  nmax : Option Nat
deriving DecidableEq, Repr

/-- The spec's default: `NMAX` unbounded (00_scope.md R6). -/
def Config.unbounded : Config := { nmax := none }

end Sys2Proof
end

