-- ==== Sys2Proof/Machine/State.lean ====
section
/-!
DEFINITION. The state of one DCproject CORE (10_state.md R20 to R36), as plain data, with the implementation
parameter `NMAX`, the host's remaining operations and what the host has read.
-/

namespace Sys2Proof.Machine

/-- Encoder working registers (10_state.md R28). -/
structure EncRegs where
  i : Nat
  t : R
  last : Sgn
  pol : Sgn
  lastNZ : Sgn
  lastP : Sgn
  marks : Nat
deriving DecidableEq, Repr

/-- Decoder working registers (10_state.md R29). `prev` is `none` for the schemes that have no such register, and
`cur` has no initial value (R29: "none"). -/
structure DecRegs where
  n : Nat
  b : Nat
  prev : Option Sgn
  cur : Option Sgn
deriving DecidableEq, Repr

/-- PCM's per-sample temporaries `c`, `norm`, `q` (10_state.md R30). -/
structure PcmRegs where
  c : R
  norm : R
  q : Nat
deriving DecidableEq, Repr

/-- DM's running approximation (10_state.md R30). -/
structure DmRegs where
  approx : R
deriving DecidableEq, Repr

/-- A character of the Manacher transform `^#c0#c1#...#$` (44_analyzer.md R173). -/
inductive TChar where
  | caret
  | hash
  | bit (b : Bit)
  | dollar
deriving DecidableEq, Repr

/-- Palindrome-unit working registers (10_state.md R31, 44_analyzer.md R173). -/
structure PalRegs where
  T : List TChar
  P : List Nat
  C : Nat
  Rt : Nat
  maxLen : Nat
  center : Nat
deriving DecidableEq, Repr

/-- Zero-run-unit working registers (10_state.md R31, 44_analyzer.md R174). -/
structure ZeroRegs where
  zcur : Nat
  zbest : Nat
deriving DecidableEq, Repr

/-- The working registers of the command in progress (10_state.md R28 to R32), by family. `pcm none` is PCM before
its first sample. -/
inductive Work where
  | enc (r : EncRegs)
  | dec (r : DecRegs)
  | pcm (sample : Option PcmRegs)
  | dm (r : DmRegs)
  | analyze (pal : PalRegs) (zrun : ZeroRegs)
deriving DecidableEq, Repr

/-- The five buffers, each an address space of its own (20_memory.md R50). -/
inductive Buffer where
  | bitin
  | sampin
  | wavein
  | bitout
  | waveout
deriving DecidableEq, Repr

/-- What one host read names (20_memory.md R58, 30_encoding.md R83): an element or the length of a buffer, a whole
buffer, a report register or `STATUS`. -/
inductive HostRead where
  | element (x : Buffer) (k : Nat)
  | length (x : Buffer)
  | contents (x : Buffer)
  | rptPalStart
  | rptPalLen
  | rptZrun
  | status
deriving DecidableEq, Repr

/-- What a host read returns. -/
inductive HostValue where
  | bit (b : Bit)
  | real (x : R)
  | point (p : Point)
  | bits (bs : List Bit)
  | reals (xs : List R)
  | wave (w : Wave)
  | nat (n : Nat)
  | code (c : BitVec 4)
deriving DecidableEq, Repr

/-- The host's operations (20_memory.md R58): `HostWrite` of each input buffer, the two copies of 30_encoding.md R83,
`HostRead`, `Issue`; and the reset event of 70_reset_and_hazards.md R230. No form writes an output buffer, a report
register or `STATUS`, and no form reads the frame or a working register. -/
inductive HostOp where
  | writeBitin (seq : List Bit)
  | writeSampin (seq : List R)
  | writeWavein (seq : Wave)
  | xferB
  | xferW
  | read (r : HostRead)
  | issue (f : Frame)
  | reset
deriving DecidableEq, Repr

/-- The state of one block (10_state.md R20), the capacity parameter (00_scope.md R6), and the host's side:
`schedule` is the host's operations still to come, in order (20_memory.md R59), and `seen` the values its reads have
returned, oldest first. `frame` is the command frame the host has presented and the engine has not yet executed: it
is not retained and has no reset value (R22, R34). `work` holds the working registers inside a command and nothing
between commands (R32). -/
structure State where
  config : Config
  frame : Option Frame
  bitin : List Bit
  sampin : List R
  wavein : Wave
  bitout : List Bit
  waveout : Wave
  rptPalStart : Nat
  rptPalLen : Nat
  rptZrun : Nat
  status : BitVec 4
  work : Option Work
  schedule : List HostOp
  seen : List HostValue
deriving DecidableEq, Repr

/-- The state after reset (10_state.md R34, 70_reset_and_hazards.md R230). -/
def State.reset : State :=
  { config := Config.unbounded
    frame := none
    bitin := []
    sampin := []
    wavein := []
    bitout := []
    waveout := []
    rptPalStart := 0
    rptPalLen := 0
    rptZrun := 0
    status := 0
    work := none
    schedule := []
    seen := [] }

/-- Why the machine stops. No command stops it: every failure of the spec is a next state (60_exceptions.md R207). -/
inductive Fault where
  /-- Raised by a host read of element `k` of a buffer whose length is at most `k`: no such element exists
  (20_memory.md R50, R52). Safe: the spec gives such a read no value. -/
  | noSuchElement (x : Buffer) (k : Nat)
deriving DecidableEq, Repr

/-- Why an instruction has no meaning in a state. -/
inductive Refusal where
  /-- An instruction whose meaning is not modelled. Raised by no arm of `exec`. Safe. -/
  | notModelled (mnemonic : String)
  /-- Raised by `PCM` and `DM` when executed in a state that holds no command frame: their operand registers have no
  value (10_state.md R34, "must be supplied with every command"). `step` never does so. Safe. -/
  | noCommandFrame
deriving DecidableEq, Repr

end Sys2Proof.Machine
end

