-- ==== Sys2Proof/Machine/Flags.lean ====
section
/-!
DEFINITION. The one flag register, `STATUS` (10_state.md R24): the failures and their codes (60_exceptions.md R200).
There are no condition codes.
-/

namespace Sys2Proof.Machine

/-- The failures of 60_exceptions.md R200. `invalidBitString` and `invalidAnalogSample` are the host's and never
raised by the block (R201). -/
inductive Failure where
  | invalidBitString
  | emptyInput
  | invalidAnalogSample
  | unsupportedCombination
  | unsupportedDecode
  | illegalCommand
  | invalidParameter
  | capacityExceeded
deriving DecidableEq, Repr

/-- `code(<Failure>)` (60_exceptions.md R200). -/
def failureCode : Failure → BitVec 4
  | .invalidBitString => 1
  | .emptyInput => 2
  | .invalidAnalogSample => 3
  | .unsupportedCombination => 4
  | .unsupportedDecode => 5
  | .illegalCommand => 6
  | .invalidParameter => 7
  | .capacityExceeded => 8

/-- The code of a command that completes: 0, `OK` (60_exceptions.md R200, R207). -/
def statusOk : BitVec 4 := 0

end Sys2Proof.Machine
end

