-- ==== Sys2Proof/Machine/Operands.lean ====
section
/-!
DEFINITION. The operand forms and number helpers: `sign` and `round` (00_scope.md R12), the three-valued registers'
arithmetic, `Chr` (10_state.md R25), bit vectors laid out most significant bit first (00_scope.md R10), the
assembler's default operands (30_encoding.md R82) and the initial values of the encoder's working registers.
-/

namespace Sys2Proof.Machine

/-- Negation of a value in {-1, 0, +1}. -/
def negSgn : Sgn → Sgn
  | .minus => .plus
  | .zero => .zero
  | .plus => .minus

/-- The level a value in {-1, 0, +1} is emitted at. -/
def sgnLevel : Sgn → R
  | .minus => -1
  | .zero => 0
  | .plus => 1

/-- "if that was 0, defaults to +1" (42_scramble.md R131, R136). -/
def zeroDefaultsToPlus : Sgn → Sgn
  | .minus => .minus
  | .zero => .plus
  | .plus => .plus

/-- `sign(x)`, three-valued (00_scope.md R12). -/
def signOf (x : R) : Sgn :=
  if x > 0 then .plus else if x = 0 then .zero else .minus

/-- `round(x)` is `floor(x + 1/2)` (00_scope.md R12). -/
def roundHalfUp (x : R) : Int := ⌊x + 1 / 2⌋

/-- `Chr(0)` = '0' and `Chr(1)` = '1' (10_state.md R25). -/
def chrOfBit (b : Bit) : Char := if b then '1' else '0'

/-- `bits_w(q)`, emitted "most-significant bit first" (00_scope.md R10): bit `w - 1` first, bit 0 last. -/
def bitsMsbFirst (w q : Nat) : List Bit :=
  (List.range w).reverse.map fun j => q.testBit j

/-- The operand values the assembler writes where a line gives none: `bps=8`, `lo=-1`, `hi=1`, `step=0.1`
(30_encoding.md R82). The block itself has no default. -/
def assemblerDefaults : Args := { bps := 8, lo := -1, hi := 1, step := mkRat 1 10 }

/-- The encoder working registers at command start (10_state.md R28, 70_reset_and_hazards.md R231). -/
def initialEncRegs : EncRegs :=
  { i := 0, t := 0, last := .plus, pol := .minus, lastNZ := .zero, lastP := .minus, marks := 0 }

end Sys2Proof.Machine
end

