-- ==== Sys2Proof/Machine/Ops.lean ====
section
/-!
DEFINITION. The named operations every command is built from: command start (60_exceptions.md R208), completion and
failure entry (R207), the capacity check (20_memory.md R53, 60_exceptions.md R206), the two access primitives `Seg`
(20_memory.md R55) and `LevelAt` (R56), and the frames shared by the ENC commands (41_line_encoder.md R110) and the
DEC commands (43_line_decoder.md R150).

Failure entry is `raise`, the one shared operation of every failure. There is no return to model beside it: "There is
no return instruction, because a failure transfers control nowhere" (60_exceptions.md R211).
-/

namespace Sys2Proof.Machine

/-- The results of a command cleared: what every command does before anything else (60_exceptions.md R208). -/
def clearResults (s : State) : State :=
  { s with bitout := [], waveout := [], rptPalStart := 0, rptPalLen := 0, rptZrun := 0 }

/-- The working registers loaded with their initial values (10_state.md R32, 70_reset_and_hazards.md R231). -/
def loadWork (w : Work) (s : State) : State := { s with work := some w }

/-- What the end of every command does besides its results: the frame is not retained (10_state.md R22), the final
values of the working registers are discarded (R32), and `STATUS` is written, once (R24). -/
def endCommand (code : BitVec 4) (s : State) : State :=
  { s with frame := none, work := none, status := code }

/-- `complete` of 60_exceptions.md R207. -/
def complete (s : State) : State := endCommand statusOk s

/-- `raise <Failure>` of 60_exceptions.md R207: taking a failure. Results cleared, `STATUS` the failure's code, the
input buffers untouched; no mode changes and control goes nowhere. -/
def raise (f : Failure) (s : State) : State := endCommand (failureCode f) (clearResults s)

/-- Whether `n` elements fit a buffer of capacity `NMAX` (00_scope.md R6). -/
def fitsCapacity (c : Config) (n : Nat) : Bool :=
  match c.nmax with
  | none => true
  | some m => decide (n ≤ m)

/-- `X.append(v)` for each element in turn (20_memory.md R53); `none` at the first append that would make the buffer
longer than `NMAX`. -/
def appendEach {α : Type} (c : Config) : List α → List α → Option (List α)
  | buf, [] => some buf
  | buf, v :: vs => if fitsCapacity c (buf.length + 1) then appendEach c (buf ++ [v]) vs else none

/-- Append a command's bits to `BITOUT` and complete, or fail with `CapacityExceeded` (20_memory.md R53). -/
def commitBits (out : List Bit) (s : State) : State :=
  match appendEach s.config s.bitout out with
  | some buf => complete { s with bitout := buf }
  | none => raise .capacityExceeded s

/-- Append a command's points to `WAVEOUT` and complete, or fail with `CapacityExceeded` (20_memory.md R53). -/
def commitWave (out : Wave) (s : State) : State :=
  match appendEach s.config s.waveout out with
  | some buf => complete { s with waveout := buf }
  | none => raise .capacityExceeded s

/-- Write the report registers and complete (44_analyzer.md R170). -/
def commitReport (palStart palLen zrun : Nat) (s : State) : State :=
  complete { s with rptPalStart := palStart, rptPalLen := palLen, rptZrun := zrun }

/-- A command whose only effect is a failure (30_encoding.md R75, R77): results cleared at its start, then the
failure taken. -/
def failingCommand (f : Failure) (s : State) : State := raise f (clearResults s)

/-! ## Encoder side: `Seg` and the ENC frame -/

/-- A piece of an encoder's body: from the working registers to the registers after it and the points it appends to
`WAVEOUT`. -/
abbrev Emit := EncRegs → EncRegs × Wave

/-- `Seg(L, d)` (20_memory.md R55): the segment's start point, its end point, and the time cursor advanced. -/
def seg (level duration : R) : Emit := fun r =>
  ({ r with t := r.t + duration }, [⟨r.t, level⟩, ⟨r.t + duration, level⟩])

/-- The scan cursor moved past `k` input elements (10_state.md R23). -/
def advance (k : Nat) : Emit := fun r => ({ r with i := r.i + k }, [])

/-- One piece after another. -/
def emitThen (a b : Emit) : Emit := fun r =>
  let ra := a r
  let rb := b ra.1
  (rb.1, ra.2 ++ rb.2)

/-- Several pieces in order. -/
def emitAll : List Emit → Emit
  | [] => fun r => (r, [])
  | a :: as => emitThen a (emitAll as)

/-- A body that codes each bit of the input in turn (41_line_encoder.md R111 to R115). -/
def scanBits (code : Bit → Emit) : List Bit → Emit
  | [] => emitAll []
  | b :: bs => emitThen (code b) (scanBits code bs)

/-- The frame of every ENC command (41_line_encoder.md R110), with the input-capacity check of 60_exceptions.md R209
item 4. -/
def encFrame (body : List Bit → Emit) (s : State) : State :=
  if fitsCapacity s.config s.bitin.length then
    commitWave (body s.bitin initialEncRegs).2 (loadWork (.enc initialEncRegs) (clearResults s))
  else raise .capacityExceeded (clearResults s)

/-! ## Decoder side: `LevelAt` and the DEC frame -/

/-- `LevelAt(tx)` on the non-empty waveform `p :: ps` (20_memory.md R56): the level of the first point whose time is
`>= tx`; if there is none, of the last point. -/
def levelAt (p : Point) (ps : Wave) (tx : R) : R :=
  match ps with
  | [] => p.level
  | q :: qs => if p.time ≥ tx then p.level else levelAt q qs tx

/-- The time of the last point of `p :: ps` in sequence order (43_line_decoder.md R150). -/
def finalTime (p : Point) : Wave → R
  | [] => p.time
  | q :: qs => finalTime q qs

/-- The number of intervals to decode, `round(final waveform time)` (43_line_decoder.md R150). A final time below 0.5
gives no interval (R158 (b)), a negative one included (log 9). -/
def intervalCount (p : Point) (ps : Wave) : Nat := (roundHalfUp (finalTime p ps)).toNat

/-- A decoder body: `count` intervals, each giving one bit, the interval index `b` advancing by one. -/
def decodeIntervals (interval : DecRegs → DecRegs × Bit) : Nat → DecRegs → List Bit
  | 0, _ => []
  | count + 1, r =>
    let d := interval r
    d.2 :: decodeIntervals interval count { d.1 with b := d.1.b + 1 }

/-- The decoder working registers at command start (10_state.md R29). -/
def initialDecRegs (seed : (R → R) → Option Sgn) (p : Point) (ps : Wave) : DecRegs :=
  { n := intervalCount p ps, b := 0, prev := seed (levelAt p ps), cur := none }

/-- The frame of every DEC command (43_line_decoder.md R150), with the input-capacity check of 60_exceptions.md R209
item 4 before the empty-input check of item 5. `seed` is the initial `prev` and `interval` decides one bit, both from
the waveform's `LevelAt`. -/
def decFrame (seed : (R → R) → Option Sgn) (interval : (R → R) → DecRegs → DecRegs × Bit) (s : State) : State :=
  if fitsCapacity s.config s.wavein.length then
    match s.wavein with
    | [] => raise .unsupportedDecode (clearResults s)
    | p :: ps =>
      let r := initialDecRegs seed p ps
      commitBits (decodeIntervals (interval (levelAt p ps)) r.n r) (loadWork (.dec r) (clearResults s))
  else raise .capacityExceeded (clearResults s)

end Sys2Proof.Machine
end

