-- ==== Sys2Proof/Machine/Analyzer.lean ====
section
/-!
DEFINITION. The sequence analyzer (44_analyzer.md R170 to R176). `ANALYZE` computes the palindrome by the result of
R171, as R172 allows; the Manacher engine of R173 is defined beside it, whole, and is stated equal to it (log 14).
-/

namespace Sys2Proof.Machine

/-! ## The result of R171 -/

/-- `s[a..a+L)` is a palindrome: `s[a+k] = s[a+L-1-k]` for all `0 <= k < L` (44_analyzer.md R171). -/
def isPalindromeAt (s : List Bit) (a len : Nat) : Bool :=
  (List.range len).all fun k => s[a + k]? == s[a + len - 1 - k]?

/-- The smallest start of a palindromic substring of length `len`, if there is one. -/
def firstPalindrome (s : List Bit) (len : Nat) : Option Nat :=
  (List.range (s.length + 1 - len)).find? fun a => isPalindromeAt s a len

/-- The longest palindromic substring of length at most `len`, as (start, length). -/
def longestPalindromeUpTo (s : List Bit) : Nat → Nat × Nat
  | 0 => (0, 0)
  | len + 1 =>
    match firstPalindrome s (len + 1) with
    | some a => (a, len + 1)
    | none => longestPalindromeUpTo s len

/-- `LongestPalindrome(BITIN)` (44_analyzer.md R171): the greatest length, then the smallest start. -/
def longestPalindrome (s : List Bit) : Nat × Nat := longestPalindromeUpTo s s.length

/-! ## The Manacher engine of R173 -/

/-- `'^' '#' s[0] '#' ... '#' s[n-1] '#' '$'` (44_analyzer.md R173). -/
def manacherTransform (s : List Bit) : List TChar :=
  TChar.caret :: TChar.hash :: (s.flatMap (fun b => [TChar.bit b, TChar.hash]) ++ [TChar.dollar])

/-- The palindrome unit's registers when the command starts (44_analyzer.md R173). -/
def initialPalRegs (s : List Bit) : PalRegs :=
  { T := manacherTransform s
    P := List.replicate (2 * s.length + 3) 0
    C := 0
    Rt := 0
    maxLen := 0
    center := 0 }

/-- The expand step at `j` (44_analyzer.md R173): the radius grows while the characters at `j ± (1 + radius)` match.
`fuel` bounds the loop; the sentinels end it before `fuel` does. -/
def expandRadius (t : List TChar) (j : Nat) : Nat → Nat → Nat
  | 0, radius => radius
  | fuel + 1, radius =>
    if t[j + 1 + radius]? = t[j - 1 - radius]? then expandRadius t j fuel (radius + 1) else radius

/-- One turn of the first loop of 44_analyzer.md R173: mirror step, expand step, right edge moved. -/
def radiusStep (r : PalRegs) (j : Nat) : PalRegs :=
  let mirror := 2 * r.C - j
  let start := if r.Rt > j then min (r.Rt - j) (r.P.getD mirror 0) else r.P.getD j 0
  let radius := expandRadius r.T j r.T.length start
  let p := r.P.set j radius
  if j + radius > r.Rt then { r with P := p, C := j, Rt := j + radius } else { r with P := p }

/-- One turn of the second loop of 44_analyzer.md R173: strict `>`, so the first occurrence wins. -/
def bestStep (r : PalRegs) (j : Nat) : PalRegs :=
  if r.P.getD j 0 > r.maxLen then { r with maxLen := r.P.getD j 0, center := j } else r

/-- The registers after both loops; each runs `j` over `1..m-2` with `m = 2n + 3`. -/
def manacherRegs (s : List Bit) : PalRegs :=
  let js := List.range' 1 (2 * s.length + 1)
  js.foldl bestStep (js.foldl radiusStep (initialPalRegs s))

/-- The Manacher engine's result (44_analyzer.md R173). -/
def manacher (s : List Bit) : Nat × Nat :=
  if s.length = 0 then (0, 0)
  else
    let r := manacherRegs s
    ((r.center - 1 - r.maxLen) / 2, r.maxLen)

/-! ## The zero run of R174 -/

/-- One bit of the zero-run scan (44_analyzer.md R174). -/
def zeroRunBit (r : ZeroRegs) (b : Bit) : ZeroRegs :=
  if b then { r with zcur := 0 }
  else
    let zcur := r.zcur + 1
    { zcur := zcur, zbest := if zcur > r.zbest then zcur else r.zbest }

/-- `zcur` and `zbest` at command start (10_state.md R31). -/
def initialZeroRegs : ZeroRegs := { zcur := 0, zbest := 0 }

/-- `LongestZeroRun(BITIN)` (44_analyzer.md R174). -/
def longestZeroRun (s : List Bit) : Nat := (s.foldl zeroRunBit initialZeroRegs).zbest

/-! ## The command -/

/-- `ANALYZE` (44_analyzer.md R170), with the input-capacity check of 60_exceptions.md R206 (log 10). -/
def runAnalyze (s : State) : State :=
  if fitsCapacity s.config s.bitin.length then
    let pal := longestPalindrome s.bitin
    commitReport pal.1 pal.2 (longestZeroRun s.bitin)
      (loadWork (.analyze (initialPalRegs s.bitin) initialZeroRegs) (clearResults s))
  else raise .capacityExceeded (clearResults s)

/-- `ANALYZE`, 44_analyzer.md R170. -/
def execAnalyze (s : State) : Host.Outcome State Fault Refusal := .next (runAnalyze s)

/-- `longestPalindrome` as DCP's character string, read from `BITIN` and the report registers (10_state.md R25). -/
def longestPalindromeText (s : State) : List Char :=
  ((s.bitin.drop s.rptPalStart).take s.rptPalLen).map chrOfBit

end Sys2Proof.Machine
end

