-- ==== Sys2Proof/Machine/BitSource.lean ====
section
/-!
DEFINITION. The front ends (40_bitsource.md): `PCM` (R90 to R92) and `DM` (R93, R94).
-/

namespace Sys2Proof.Machine

/-- One sample quantized (40_bitsource.md R90): clamped, normalized, floored. -/
def quantize (a : Args) (x : R) : PcmRegs :=
  let m : Nat := 2 ^ a.bps - 1
  let c := min (max x a.lo) a.hi
  let norm := (c - a.lo) / (a.hi - a.lo)
  { c := c, norm := norm, q := ⌊norm * (m : R)⌋.toNat }

/-- Every sample's code, in order, most significant bit first (40_bitsource.md R90). -/
def pcmBits (a : Args) (xs : List R) : List Bit :=
  xs.flatMap fun x => bitsMsbFirst a.bps (quantize a x).q

/-- The parameter check of `PCM`: it fails when `A_BPS < 1` or not `A_LO < A_HI` (40_bitsource.md R90, R92 (a)). -/
def pcmParametersOk (a : Args) : Bool := decide (1 ≤ a.bps) && decide (a.lo < a.hi)

/-- `PCM` with the operands of its frame; the checks in the order of 60_exceptions.md R209. -/
def runPcm (a : Args) (s : State) : State :=
  if pcmParametersOk a then
    if fitsCapacity s.config s.sampin.length then
      commitBits (pcmBits a s.sampin) (loadWork (.pcm none) (clearResults s))
    else raise .capacityExceeded (clearResults s)
  else raise .invalidParameter (clearResults s)

/-- `PCM`, 40_bitsource.md R90. -/
def execPcm (s : State) : Host.Outcome State Fault Refusal :=
  match s.frame with
  | some f => .next (runPcm f.args s)
  | none => .refused .noCommandFrame

/-- One sample after the first (40_bitsource.md R93): the bit, then the approximation advanced. -/
def dmSample (step : R) (r : DmRegs) (x : R) : DmRegs × Bit :=
  if x ≥ r.approx then ({ r with approx := r.approx + step }, true)
  else ({ r with approx := r.approx - step }, false)

/-- The bits of the samples after the first (40_bitsource.md R93). -/
def dmBits (step : R) : DmRegs → List R → List Bit
  | _, [] => []
  | r, x :: xs =>
    let d := dmSample step r x
    d.2 :: dmBits step d.1 xs

/-- `DM` with the operand of its frame; the checks in the order of 60_exceptions.md R209. -/
def runDm (a : Args) (s : State) : State :=
  if a.step > 0 then
    if fitsCapacity s.config s.sampin.length then
      match s.sampin with
      | [] => raise .emptyInput (clearResults s)
      | x :: xs => commitBits (dmBits a.step { approx := x } xs) (loadWork (.dm { approx := x }) (clearResults s))
    else raise .capacityExceeded (clearResults s)
  else raise .invalidParameter (clearResults s)

/-- `DM`, 40_bitsource.md R93. -/
def execDm (s : State) : Host.Outcome State Fault Refusal :=
  match s.frame with
  | some f => .next (runDm f.args s)
  | none => .refused .noCommandFrame

end Sys2Proof.Machine
end

