-- ==== Sys2Proof/Machine/Failures.lean ====
section
/-!
DEFINITION. The 18 encodings with no defined operation (30_encoding.md R75; 60_exceptions.md R203, R204), each a
command whose only effect is its failure, and the reserved words (30_encoding.md R77; 60_exceptions.md R205).
-/

namespace Sys2Proof.Machine

/-- A reserved control word: `IllegalCommand`, results cleared, nothing else (60_exceptions.md R205). -/
def illegalCommand (s : State) : State := failingCommand .illegalCommand s

/-- `ENC.NRZL.B8ZS` (60_exceptions.md R203). -/
def execEncNrzlB8zs (s : State) : Host.Outcome State Fault Refusal := .next (failingCommand .unsupportedCombination s)

/-- `ENC.NRZI.B8ZS` (60_exceptions.md R203). -/
def execEncNrziB8zs (s : State) : Host.Outcome State Fault Refusal := .next (failingCommand .unsupportedCombination s)

/-- `ENC.MAN.B8ZS` (60_exceptions.md R203). -/
def execEncManB8zs (s : State) : Host.Outcome State Fault Refusal := .next (failingCommand .unsupportedCombination s)

/-- `ENC.DMAN.B8ZS` (60_exceptions.md R203). -/
def execEncDmanB8zs (s : State) : Host.Outcome State Fault Refusal := .next (failingCommand .unsupportedCombination s)

/-- `ENC.NRZL.HDB3` (60_exceptions.md R203). -/
def execEncNrzlHdb3 (s : State) : Host.Outcome State Fault Refusal := .next (failingCommand .unsupportedCombination s)

/-- `ENC.NRZI.HDB3` (60_exceptions.md R203). -/
def execEncNrziHdb3 (s : State) : Host.Outcome State Fault Refusal := .next (failingCommand .unsupportedCombination s)

/-- `ENC.MAN.HDB3` (60_exceptions.md R203). -/
def execEncManHdb3 (s : State) : Host.Outcome State Fault Refusal := .next (failingCommand .unsupportedCombination s)

/-- `ENC.DMAN.HDB3` (60_exceptions.md R203). -/
def execEncDmanHdb3 (s : State) : Host.Outcome State Fault Refusal := .next (failingCommand .unsupportedCombination s)

/-- `DEC.NRZL.B8ZS` (60_exceptions.md R204). -/
def execDecNrzlB8zs (s : State) : Host.Outcome State Fault Refusal := .next (failingCommand .unsupportedDecode s)

/-- `DEC.NRZI.B8ZS` (60_exceptions.md R204). -/
def execDecNrziB8zs (s : State) : Host.Outcome State Fault Refusal := .next (failingCommand .unsupportedDecode s)

/-- `DEC.MAN.B8ZS` (60_exceptions.md R204). -/
def execDecManB8zs (s : State) : Host.Outcome State Fault Refusal := .next (failingCommand .unsupportedDecode s)

/-- `DEC.DMAN.B8ZS` (60_exceptions.md R204). -/
def execDecDmanB8zs (s : State) : Host.Outcome State Fault Refusal := .next (failingCommand .unsupportedDecode s)

/-- `DEC.AMI.B8ZS` (60_exceptions.md R204). -/
def execDecAmiB8zs (s : State) : Host.Outcome State Fault Refusal := .next (failingCommand .unsupportedDecode s)

/-- `DEC.NRZL.HDB3` (60_exceptions.md R204). -/
def execDecNrzlHdb3 (s : State) : Host.Outcome State Fault Refusal := .next (failingCommand .unsupportedDecode s)

/-- `DEC.NRZI.HDB3` (60_exceptions.md R204). -/
def execDecNrziHdb3 (s : State) : Host.Outcome State Fault Refusal := .next (failingCommand .unsupportedDecode s)

/-- `DEC.MAN.HDB3` (60_exceptions.md R204). -/
def execDecManHdb3 (s : State) : Host.Outcome State Fault Refusal := .next (failingCommand .unsupportedDecode s)

/-- `DEC.DMAN.HDB3` (60_exceptions.md R204). -/
def execDecDmanHdb3 (s : State) : Host.Outcome State Fault Refusal := .next (failingCommand .unsupportedDecode s)

/-- `DEC.AMI.HDB3` (60_exceptions.md R204). -/
def execDecAmiHdb3 (s : State) : Host.Outcome State Fault Refusal := .next (failingCommand .unsupportedDecode s)

end Sys2Proof.Machine
end

