-- ==== Sys2Proof/Machine/LineDecoder.lean ====
section
/-!
DEFINITION. The line decoders (43_line_decoder.md R150 to R158): per scheme, the seed of `prev` and the decision for
one interval, both from samples of the waveform at the fixed offsets of R151.
-/

namespace Sys2Proof.Machine

/-- The schemes without a carried sign (43_line_decoder.md R151, column seed: none). -/
def noSeed (_level : R → R) : Option Sgn := none

/-- `DEC.NRZI` seeds with the sign at 1/4 (43_line_decoder.md R153). -/
def nrziSeed (level : R → R) : Option Sgn := some (signOf (level (1 / 4)))

/-- `DEC.DMAN` seeds with the sign at 1/2 (43_line_decoder.md R155). -/
def dmanSeed (level : R → R) : Option Sgn := some (signOf (level (1 / 2)))

/-- One interval of `DEC.NRZL` (43_line_decoder.md R152). -/
def nrzlInterval (level : R → R) (r : DecRegs) : DecRegs × Bit :=
  (r, decide (level (r.b + 1 / 2) > 0))

/-- One interval of `DEC.NRZI` (43_line_decoder.md R153). -/
def nrziInterval (level : R → R) (r : DecRegs) : DecRegs × Bit :=
  let cur := signOf (level (r.b + 99 / 100))
  ({ r with prev := some cur, cur := some cur }, decide (some cur ≠ r.prev))

/-- One interval of `DEC.MAN` (43_line_decoder.md R154). -/
def manInterval (level : R → R) (r : DecRegs) : DecRegs × Bit :=
  (r, decide (level (r.b + 1 / 4) > level (r.b + 3 / 4)))

/-- One interval of `DEC.DMAN` (43_line_decoder.md R155). -/
def dmanInterval (level : R → R) (r : DecRegs) : DecRegs × Bit :=
  let cur := signOf (level (r.b + 1 / 2))
  ({ r with prev := some cur, cur := some cur }, decide (some cur = r.prev))

/-- One interval of `DEC.AMI` (43_line_decoder.md R156). -/
def amiInterval (level : R → R) (r : DecRegs) : DecRegs × Bit :=
  (r, decide (|level (r.b + 1 / 2)| > 1 / 1000000))

/-- `DEC.NRZL`, 43_line_decoder.md R152. -/
def execDecNrzl (s : State) : Host.Outcome State Fault Refusal := .next (decFrame noSeed nrzlInterval s)

/-- `DEC.NRZI`, 43_line_decoder.md R153. -/
def execDecNrzi (s : State) : Host.Outcome State Fault Refusal := .next (decFrame nrziSeed nrziInterval s)

/-- `DEC.MAN`, 43_line_decoder.md R154. -/
def execDecMan (s : State) : Host.Outcome State Fault Refusal := .next (decFrame noSeed manInterval s)

/-- `DEC.DMAN`, 43_line_decoder.md R155. -/
def execDecDman (s : State) : Host.Outcome State Fault Refusal := .next (decFrame dmanSeed dmanInterval s)

/-- `DEC.AMI`, 43_line_decoder.md R156. -/
def execDecAmi (s : State) : Host.Outcome State Fault Refusal := .next (decFrame noSeed amiInterval s)

end Sys2Proof.Machine
end

