-- ==== Sys2Proof/Machine/LineEncoder.lean ====
section
/-!
DEFINITION. The line encoders without substitution (41_line_encoder.md R110 to R118). Each codes one bit as a piece
that reads and updates the working registers of 10_state.md R28.
-/

namespace Sys2Proof.Machine

/-- One bit of `ENC.NRZL` (41_line_encoder.md R111). -/
def nrzlBit (b : Bit) : Emit :=
  emitAll [seg (if b then 1 else -1) 1, advance 1]

/-- One bit of `ENC.NRZI` (41_line_encoder.md R112): a 1 inverts `last` before the interval is emitted. -/
def nrziBit (b : Bit) : Emit := fun r =>
  let last := if b then negSgn r.last else r.last
  emitAll [seg (sgnLevel last) 1, advance 1] { r with last := last }

/-- One bit of `ENC.MAN` (41_line_encoder.md R113). -/
def manBit (b : Bit) : Emit :=
  let f : R := if b then 1 else -1
  emitAll [seg f (1 / 2), seg (-f) (1 / 2), advance 1]

/-- One bit of `ENC.DMAN` (41_line_encoder.md R114): a 0 inverts `last`, the first-half level. -/
def dmanBit (b : Bit) : Emit := fun r =>
  let last := if b then r.last else negSgn r.last
  emitAll [seg (sgnLevel last) (1 / 2), seg (sgnLevel (negSgn last)) (1 / 2), advance 1] { r with last := last }

/-- One bit of `ENC.AMI` (41_line_encoder.md R115): a 1 inverts `pol` and is sent at it, a 0 is sent at level 0. -/
def amiBit (b : Bit) : Emit := fun r =>
  let pol := if b then negSgn r.pol else r.pol
  emitAll [seg (if b then sgnLevel pol else 0) 1, advance 1] { r with pol := pol }

/-- `ENC.NRZL`, 41_line_encoder.md R111. -/
def execEncNrzl (s : State) : Host.Outcome State Fault Refusal := .next (encFrame (scanBits nrzlBit) s)

/-- `ENC.NRZI`, 41_line_encoder.md R112. -/
def execEncNrzi (s : State) : Host.Outcome State Fault Refusal := .next (encFrame (scanBits nrziBit) s)

/-- `ENC.MAN`, 41_line_encoder.md R113. -/
def execEncMan (s : State) : Host.Outcome State Fault Refusal := .next (encFrame (scanBits manBit) s)

/-- `ENC.DMAN`, 41_line_encoder.md R114. -/
def execEncDman (s : State) : Host.Outcome State Fault Refusal := .next (encFrame (scanBits dmanBit) s)

/-- `ENC.AMI`, 41_line_encoder.md R115. -/
def execEncAmi (s : State) : Host.Outcome State Fault Refusal := .next (encFrame (scanBits amiBit) s)

end Sys2Proof.Machine
end

