-- ==== Sys2Proof/Machine/Scramble.lean ====
section
/-!
DEFINITION. The substitution engine (42_scramble.md R130 to R141): AMI with B8ZS and AMI with HDB3. Each scan tests,
at its cursor, for a window of zeros that lies wholly inside the input.
-/

namespace Sys2Proof.Machine

/-- A zero window of `k` bits at the cursor, lying wholly inside the sequence (42_scramble.md R130): `rest` is the
input from the cursor on. -/
def zeroWindow (k : Nat) (rest : List Bit) : Bool :=
  decide (k ≤ rest.length) && (rest.take k).all fun b => b == false

/-- The scan shared by both substitutions (42_scramble.md R130): at each position the window first, else one bit.
`skip` counts the input bits of a window already emitted that the cursor has still to pass. -/
def substitutionScan (k : Nat) (window : Emit) (code : Bit → Emit) : List Bit → (skip : Nat) → Emit
  | [], _ => emitAll []
  | _ :: rest, skip + 1 => substitutionScan k window code rest skip
  | b :: rest, 0 =>
    if zeroWindow k (b :: rest) then emitThen window (substitutionScan k window code rest (k - 1))
    else emitThen (code b) (substitutionScan k window code rest 0)

/-- `EmitV()` (42_scramble.md R131): the violation pulse; `pol` is not touched. -/
def emitV : Emit := fun r =>
  let v := zeroDefaultsToPlus r.lastNZ
  seg (sgnLevel v) 1 { r with lastNZ := v }

/-- `EmitB()` (42_scramble.md R131): the normal alternating pulse; it inverts `pol` (R132). -/
def emitB : Emit := fun r =>
  let b := negSgn r.lastNZ
  seg (sgnLevel b) 1 { r with lastNZ := b, pol := negSgn r.pol }

/-- The window `0 0 0 V B 0 V B` (42_scramble.md R131). -/
def b8zsWindow : Emit :=
  emitAll [seg 0 1, seg 0 1, seg 0 1, emitV, emitB, seg 0 1, emitV, emitB, advance 8]

/-- A bit outside a B8ZS window (42_scramble.md R131). -/
def b8zsBit (b : Bit) : Emit := fun r =>
  if b then
    let pol := negSgn r.pol
    emitAll [seg (sgnLevel pol) 1, advance 1] { r with pol := pol, lastNZ := pol }
  else emitAll [seg 0 1, advance 1] r

/-- The scan of `ENC.AMI.B8ZS` (42_scramble.md R131): windows of 8 zeros. -/
def b8zsScan (bits : List Bit) : Emit := substitutionScan 8 b8zsWindow b8zsBit bits 0

/-- The window of HDB3 (42_scramble.md R136): `B 0 0 V` when `marks` is even, `0 0 0 V` when it is odd. -/
def hdb3Window : Emit := fun r =>
  let lastP := zeroDefaultsToPlus r.lastP
  if r.marks % 2 = 0 then
    let b := negSgn lastP
    emitAll [seg (sgnLevel b) 1, seg 0 1, seg 0 1, seg (sgnLevel b) 1, advance 4] { r with lastP := b, marks := 0 }
  else
    emitAll [seg 0 1, seg 0 1, seg 0 1, seg (sgnLevel lastP) 1, advance 4] { r with lastP := lastP, marks := 0 }

/-- A bit outside an HDB3 window (42_scramble.md R136). -/
def hdb3Bit (b : Bit) : Emit := fun r =>
  if b then
    let lastP := negSgn (zeroDefaultsToPlus r.lastP)
    emitAll [seg (sgnLevel lastP) 1, advance 1] { r with lastP := lastP, marks := r.marks + 1 }
  else emitAll [seg 0 1, advance 1] r

/-- The scan of `ENC.AMI.HDB3` (42_scramble.md R136): windows of 4 zeros. -/
def hdb3Scan (bits : List Bit) : Emit := substitutionScan 4 hdb3Window hdb3Bit bits 0

/-- `ENC.AMI.B8ZS`, 42_scramble.md R131. -/
def execEncAmiB8zs (s : State) : Host.Outcome State Fault Refusal := .next (encFrame b8zsScan s)

/-- `ENC.AMI.HDB3`, 42_scramble.md R136. -/
def execEncAmiHdb3 (s : State) : Host.Outcome State Fault Refusal := .next (encFrame hdb3Scan s)

end Sys2Proof.Machine
end

