-- ==== Sys2Proof/Machine/Dispatch.lean ====
section
/-!
DEFINITION. exec: one arm per command, each a direct call of its meaning (41_line_encoder.md R118: the control word
alone selects the body).
-/

namespace Sys2Proof.Machine

def exec (i : Instr) (s : State) : Host.Outcome State Fault Refusal :=
  match i with
  | .pcm => Sys2Proof.Machine.execPcm s
  | .dm => Sys2Proof.Machine.execDm s
  | .encNrzl => Sys2Proof.Machine.execEncNrzl s
  | .encNrzi => Sys2Proof.Machine.execEncNrzi s
  | .encMan => Sys2Proof.Machine.execEncMan s
  | .encDman => Sys2Proof.Machine.execEncDman s
  | .encAmi => Sys2Proof.Machine.execEncAmi s
  | .encAmiB8zs => Sys2Proof.Machine.execEncAmiB8zs s
  | .encAmiHdb3 => Sys2Proof.Machine.execEncAmiHdb3 s
  | .decNrzl => Sys2Proof.Machine.execDecNrzl s
  | .decNrzi => Sys2Proof.Machine.execDecNrzi s
  | .decMan => Sys2Proof.Machine.execDecMan s
  | .decDman => Sys2Proof.Machine.execDecDman s
  | .decAmi => Sys2Proof.Machine.execDecAmi s
  | .analyze => Sys2Proof.Machine.execAnalyze s
  | .encNrzlB8zs => Sys2Proof.Machine.execEncNrzlB8zs s
  | .encNrziB8zs => Sys2Proof.Machine.execEncNrziB8zs s
  | .encManB8zs => Sys2Proof.Machine.execEncManB8zs s
  | .encDmanB8zs => Sys2Proof.Machine.execEncDmanB8zs s
  | .encNrzlHdb3 => Sys2Proof.Machine.execEncNrzlHdb3 s
  | .encNrziHdb3 => Sys2Proof.Machine.execEncNrziHdb3 s
  | .encManHdb3 => Sys2Proof.Machine.execEncManHdb3 s
  | .encDmanHdb3 => Sys2Proof.Machine.execEncDmanHdb3 s
  | .decNrzlB8zs => Sys2Proof.Machine.execDecNrzlB8zs s
  | .decNrziB8zs => Sys2Proof.Machine.execDecNrziB8zs s
  | .decManB8zs => Sys2Proof.Machine.execDecManB8zs s
  | .decDmanB8zs => Sys2Proof.Machine.execDecDmanB8zs s
  | .decAmiB8zs => Sys2Proof.Machine.execDecAmiB8zs s
  | .decNrzlHdb3 => Sys2Proof.Machine.execDecNrzlHdb3 s
  | .decNrziHdb3 => Sys2Proof.Machine.execDecNrziHdb3 s
  | .decManHdb3 => Sys2Proof.Machine.execDecManHdb3 s
  | .decDmanHdb3 => Sys2Proof.Machine.execDecDmanHdb3 s
  | .decAmiHdb3 => Sys2Proof.Machine.execDecAmiHdb3 s

end Sys2Proof.Machine
end

