-- ==== Sys2Proof/Machine/HostPort.lean ====
section
/-!
DEFINITION. The host's operations on the block (20_memory.md R58, 30_encoding.md R83) and the reset event
(70_reset_and_hazards.md R230). They happen between commands only (20_memory.md R59) and never touch `STATUS`, the
report registers or the output buffers, the reset event apart.
-/

namespace Sys2Proof.Machine

/-- Element `k` of a buffer; `none` when the buffer has no such element (20_memory.md R50, R52). -/
def readElement (x : Buffer) (k : Nat) (s : State) : Option HostValue :=
  match x with
  | .bitin => (s.bitin[k]?).map .bit
  | .sampin => (s.sampin[k]?).map .real
  | .wavein => (s.wavein[k]?).map .point
  | .bitout => (s.bitout[k]?).map .bit
  | .waveout => (s.waveout[k]?).map .point

/-- The length of a buffer. -/
def bufferLength (x : Buffer) (s : State) : Nat :=
  match x with
  | .bitin => s.bitin.length
  | .sampin => s.sampin.length
  | .wavein => s.wavein.length
  | .bitout => s.bitout.length
  | .waveout => s.waveout.length

/-- A whole buffer (`READ <name>`, 30_encoding.md R83). -/
def bufferContents (x : Buffer) (s : State) : HostValue :=
  match x with
  | .bitin => .bits s.bitin
  | .sampin => .reals s.sampin
  | .wavein => .wave s.wavein
  | .bitout => .bits s.bitout
  | .waveout => .wave s.waveout

/-- The value the host gets (log 5). -/
def recordRead (v : HostValue) (s : State) : State := { s with seen := s.seen ++ [v] }

/-- `HostRead` (20_memory.md R58): nothing of the block changes (R52, R61). Reading past a buffer's end faults
(log 6). -/
def hostRead (r : HostRead) (s : State) : Host.Outcome State Fault Refusal :=
  match r with
  | .element x k =>
    match readElement x k s with
    | some v => .next (recordRead v s)
    | none => .fault (.noSuchElement x k)
  | .length x => .next (recordRead (.nat (bufferLength x s)) s)
  | .contents x => .next (recordRead (bufferContents x s) s)
  | .rptPalStart => .next (recordRead (.nat s.rptPalStart) s)
  | .rptPalLen => .next (recordRead (.nat s.rptPalLen) s)
  | .rptZrun => .next (recordRead (.nat s.rptZrun) s)
  | .status => .next (recordRead (.code s.status) s)

/-- `Issue(CW, A_BPS, A_LO, A_HI, A_STEP)`: the frame presented (20_memory.md R58). The engine takes it by value in
the very next step, before any other host operation (R59, R62; log 2). -/
def presentFrame (f : Frame) (s : State) : State := { s with frame := some f }

/-- The reset event (70_reset_and_hazards.md R230): every item of 10_state.md R34 at its reset value. The capacity
parameter and the host's own side are not the block's state and stay (log 16). -/
def resetEvent (s : State) : State :=
  { State.reset with config := s.config, schedule := s.schedule, seen := s.seen }

/-- One host operation (20_memory.md R58). `xferB` and `xferW` copy values (70_reset_and_hazards.md R236). -/
def performHostOp (op : HostOp) (s : State) : Host.Outcome State Fault Refusal :=
  match op with
  | .writeBitin seq => .next { s with bitin := seq }
  | .writeSampin seq => .next { s with sampin := seq }
  | .writeWavein seq => .next { s with wavein := seq }
  | .xferB => .next { s with bitin := s.bitout }
  | .xferW => .next { s with wavein := s.waveout }
  | .read r => hostRead r s
  | .issue f => .next (presentFrame f s)
  | .reset => .next (resetEvent s)

/-- The frame that stands for the host's `Issue` of control word `cw`: the operands already presented, or the
assembler's defaults where no frame is (30_encoding.md R82; log 15). -/
def frameForWord (cw : Word) (s : State) : Frame :=
  match s.frame with
  | some f => { f with cw := cw }
  | none => { cw := cw, args := assemblerDefaults }

end Sys2Proof.Machine
end

