-- ==== Sys2Proof/Machine/Step.lean ====
section
/-!
DEFINITION. One step: the presented command executed, atomically (20_memory.md R59); else the host's next operation;
else the block waits for the first command (70_reset_and_hazards.md R230).
-/

namespace Sys2Proof.Machine

/-- One command, by its frame: the decoded command's meaning, or `IllegalCommand` for a reserved word
(30_encoding.md R77, R78). -/
def runCommand (f : Frame) (s : State) : Host.Outcome State Fault Refusal :=
  match decode f.cw with
  | .ok i => exec i s
  | .error _ => .next (illegalCommand s)

/-- One step of the block and its host. -/
def step (s : State) : Host.Outcome State Fault Refusal :=
  match s.frame with
  | some f => runCommand f s
  | none =>
    match s.schedule with
    | op :: rest => performHostOp op { s with schedule := rest }
    | [] => .next s

/-- The word `w` presented as the next command (log 15): the block has no program counter and fetches nothing
(10_state.md R23), so this stands for the host's `Issue`. -/
def State.withFetchWord (s : State) (nbits w : Nat) : State :=
  presentFrame (frameForWord (BitVec.ofNat 16 (w % 2 ^ nbits)) s) s

end Sys2Proof.Machine
end

