-- ==== Sys2Proof/Machine/HostFrontEnd.lean ====
section
/-!
DEFINITION. The host-side text functions (45_host_frontend.md R190 to R193), outside the block: `parseBinary`,
`parseAnalogSamples`, and the host operations that load what they return. No command reaches them.
-/

namespace Sys2Proof.Machine

/-- One character of a binary text (45_host_frontend.md R191). -/
def bitOfChr (ch : Char) : Option Bit :=
  if ch = '0' then some false else if ch = '1' then some true else none

/-- `parseBinary(text)` (45_host_frontend.md R191). -/
def parseBinary (text : List Char) : Except Failure (List Bit) :=
  match text with
  | [] => .error .invalidBitString
  | _ :: _ =>
    match text.mapM bitOfChr with
    | some bits => .ok bits
    | none => .error .invalidBitString

/-- A text without its leading and trailing white space. -/
def trimText (text : List Char) : List Char :=
  ((text.dropWhile Char.isWhitespace).reverse.dropWhile Char.isWhitespace).reverse

/-- The pieces of a text between the occurrences of `sep`, the empty ones included. -/
def splitText (sep : Char) : List Char → List (List Char)
  | [] => [[]]
  | c :: cs =>
    match splitText sep cs with
    | [] => [[c]]
    | piece :: pieces => if c = sep then [] :: piece :: pieces else (c :: piece) :: pieces

/-- `parseAnalogSamples(csv)` (45_host_frontend.md R192). `spelling` says which tokens spell a real number and with
what value: a parameter of the host (93_implementation_defined.md U19; log 11). -/
def parseAnalogSamples (spelling : List Char → Option R) (csv : List Char) : Except Failure (List R) :=
  let tokens := ((splitText ',' csv).map trimText).filter fun tk => !tk.isEmpty
  match tokens.filterMap spelling with
  | [] => .error .emptyInput
  | x :: xs => .ok (x :: xs)

/-- A decimal digit's value. -/
def digitValue (ch : Char) : Option Nat :=
  if '0' ≤ ch ∧ ch ≤ '9' then some (ch.toNat - 48) else none

/-- A non-empty string of decimal digits. -/
def spellNat (text : List Char) : Option Nat :=
  match text with
  | [] => none
  | _ :: _ => (text.mapM digitValue).map fun ds => ds.foldl (fun n d => 10 * n + d) 0

/-- An unsigned finite decimal (`0.1`, `3`) or a fraction with a non-zero divisor (`1/3`). -/
def spellUnsigned (text : List Char) : Option R :=
  match splitText '/' text, splitText '.' text with
  | [num, den], _ =>
    match spellNat num, spellNat den with
    | some n, some (d + 1) => some ((n : R) / ((d + 1 : Nat) : R))
    | _, _ => none
  | [_], [whole, frac] =>
    match spellNat whole, spellNat frac with
    | some n, some f => some ((n : R) + (f : R) / ((10 ^ frac.length : Nat) : R))
    | _, _ => none
  | [_], [whole] => (spellNat whole).map fun n => (n : R)
  | _, _ => none

/-- The spellings the model's host takes for a real number: "a decimal or a fraction" (30_encoding.md R80) with an
optional sign, and nothing else (45_host_frontend.md R192; log 11). -/
def spellReal (text : List Char) : Option R :=
  match text with
  | '-' :: cs => (spellUnsigned cs).map fun x => -x
  | '+' :: cs => spellUnsigned cs
  | cs => spellUnsigned cs

/-- A parsed binary text loaded into `BITIN` (45_host_frontend.md R193). -/
def loadBinaryText (text : List Char) : Except Failure HostOp :=
  (parseBinary text).map .writeBitin

/-- Parsed samples loaded into `SAMPIN` (45_host_frontend.md R193). -/
def loadSampleText (csv : List Char) : Except Failure HostOp :=
  (parseAnalogSamples spellReal csv).map .writeSampin

end Sys2Proof.Machine
end

