-- ==== Sys2Proof/Machine/Assembler.lean ====
section
/-!
DEFINITION. The assembler (30_encoding.md R80 to R83), the host's tool: it turns one line of text into the host
operation it stands for, filling in the default operands (R82). The block never sees its text.
-/

namespace Sys2Proof.Machine

/-- A command's mnemonic (30_encoding.md R74, R75, R80). -/
def mnemonicOf : Instr → String
  | .pcm => "PCM"
  | .dm => "DM"
  | .encNrzl => "ENC.NRZL"
  | .encNrzi => "ENC.NRZI"
  | .encMan => "ENC.MAN"
  | .encDman => "ENC.DMAN"
  | .encAmi => "ENC.AMI"
  | .encAmiB8zs => "ENC.AMI.B8ZS"
  | .encAmiHdb3 => "ENC.AMI.HDB3"
  | .decNrzl => "DEC.NRZL"
  | .decNrzi => "DEC.NRZI"
  | .decMan => "DEC.MAN"
  | .decDman => "DEC.DMAN"
  | .decAmi => "DEC.AMI"
  | .analyze => "ANALYZE"
  | .encNrzlB8zs => "ENC.NRZL.B8ZS"
  | .encNrziB8zs => "ENC.NRZI.B8ZS"
  | .encManB8zs => "ENC.MAN.B8ZS"
  | .encDmanB8zs => "ENC.DMAN.B8ZS"
  | .encNrzlHdb3 => "ENC.NRZL.HDB3"
  | .encNrziHdb3 => "ENC.NRZI.HDB3"
  | .encManHdb3 => "ENC.MAN.HDB3"
  | .encDmanHdb3 => "ENC.DMAN.HDB3"
  | .decNrzlB8zs => "DEC.NRZL.B8ZS"
  | .decNrziB8zs => "DEC.NRZI.B8ZS"
  | .decManB8zs => "DEC.MAN.B8ZS"
  | .decDmanB8zs => "DEC.DMAN.B8ZS"
  | .decAmiB8zs => "DEC.AMI.B8ZS"
  | .decNrzlHdb3 => "DEC.NRZL.HDB3"
  | .decNrziHdb3 => "DEC.NRZI.HDB3"
  | .decManHdb3 => "DEC.MAN.HDB3"
  | .decDmanHdb3 => "DEC.DMAN.HDB3"
  | .decAmiHdb3 => "DEC.AMI.HDB3"

/-- Why a line does not assemble (log 13). -/
inductive AsmError where
  | unknownMnemonic
  | badOperand
deriving DecidableEq, Repr

/-- The command a mnemonic names. -/
def commandNamed (word : List Char) : Option Instr :=
  Instr.all.find? fun i => (mnemonicOf i).toList = word

/-- A line without its comment: "`;` starts a comment" (30_encoding.md R80). -/
def withoutComment (line : List Char) : List Char := line.takeWhile fun ch => ch ≠ ';'

/-- One `name=value` operand of a command (30_encoding.md R80): `bps`, `lo`, `hi` for `PCM`, `step` for `DM`. -/
def setOperand (i : Instr) (a : Args) (item : List Char) : Option Args :=
  match splitText '=' item with
  | [name, value] =>
    let name := trimText name
    let value := trimText value
    if i = .pcm ∧ name = "bps".toList then (spellNat value).map fun n => { a with bps := n }
    else if i = .pcm ∧ name = "lo".toList then (spellReal value).map fun x => { a with lo := x }
    else if i = .pcm ∧ name = "hi".toList then (spellReal value).map fun x => { a with hi := x }
    else if i = .dm ∧ name = "step".toList then (spellReal value).map fun x => { a with step := x }
    else none
  | _ => none

/-- The operand registers of a command line: the given operands over the defaults (30_encoding.md R82). -/
def assembleArgs (i : Instr) (rest : List Char) : Option Args :=
  if rest.isEmpty then some assemblerDefaults
  else (splitText ',' rest).foldlM (setOperand i) assemblerDefaults

/-- A hexadecimal digit's value. -/
def hexValue (ch : Char) : Option Nat :=
  if '0' ≤ ch ∧ ch ≤ '9' then some (ch.toNat - 48)
  else if 'a' ≤ ch ∧ ch ≤ 'f' then some (ch.toNat - 87)
  else if 'A' ≤ ch ∧ ch ≤ 'F' then some (ch.toNat - 55)
  else none

/-- The word of `.cw 0x<hex>` (30_encoding.md R80), at most 16 bits. DESIGN CHOICE (log 13): any such word, a defined
one too (`.cw 0x0004` is `PCM` with the default operands); R80 gives the form for reserved words only. -/
def assembleWord (rest : List Char) : Option Word :=
  match rest with
  | '0' :: 'x' :: d :: ds =>
    match (d :: ds).mapM hexValue with
    | some vs =>
      let n := vs.foldl (fun n v => 16 * n + v) 0
      if n < 65536 then some (BitVec.ofNat 16 n) else none
    | none => none
  | _ => none

/-- The string of `LOAD.B "<01-string>"`, which may be empty (30_encoding.md R83). -/
def quotedBits (rest : List Char) : Option (List Bit) :=
  match rest with
  | '"' :: cs =>
    match cs.reverse with
    | '"' :: body => body.reverse.mapM bitOfChr
    | _ => none
  | _ => none

/-- The values of `LOAD.S <r>, <r>, ...`; alone, the empty sequence (30_encoding.md R83). -/
def sampleList (rest : List Char) : Option (List R) :=
  if rest.isEmpty then some []
  else (splitText ',' rest).mapM fun item => spellReal (trimText item)

/-- One point `(<t>,<L>)`, already without its closing bracket. -/
def pointOf (item : List Char) : Option Point :=
  match trimText item with
  | '(' :: body =>
    match splitText ',' body with
    | [t, l] =>
      match spellReal (trimText t), spellReal (trimText l) with
      | some t, some l => some ⟨t, l⟩
      | _, _ => none
    | _ => none
  | _ => none

/-- The points of `LOAD.W (<t>,<L>) (<t>,<L>) ...` (30_encoding.md R83): each piece before a closing bracket is one
point, and nothing follows the last. DESIGN CHOICE (log 13): no point at all, a bare `LOAD.W`, is the empty waveform;
R83 gives that form for `LOAD.B` and `LOAD.S` only. -/
def pointList (rest : List Char) : Option Wave :=
  let pieces := splitText ')' rest
  if (trimText (pieces.getLastD [])).isEmpty then pieces.dropLast.mapM pointOf else none

/-- What `READ <name>` names (30_encoding.md R83). -/
def readTarget (name : List Char) : Option HostRead :=
  if name = "BITIN".toList then some (.contents .bitin)
  else if name = "SAMPIN".toList then some (.contents .sampin)
  else if name = "WAVEIN".toList then some (.contents .wavein)
  else if name = "BITOUT".toList then some (.contents .bitout)
  else if name = "WAVEOUT".toList then some (.contents .waveout)
  else if name = "RPT_PAL_START".toList then some .rptPalStart
  else if name = "RPT_PAL_LEN".toList then some .rptPalLen
  else if name = "RPT_ZRUN".toList then some .rptZrun
  else if name = "STATUS".toList then some .status
  else none

/-- The frame of a command line (30_encoding.md R80, R82). -/
def assembleCommand (i : Instr) (rest : List Char) : Option HostOp :=
  (assembleArgs i rest).map fun a => .issue { cw := encode i, args := a }

/-- A line's operation, from its first word and the rest of its text (30_encoding.md R80, R83). -/
def assembleWords (word rest : List Char) : Except AsmError HostOp :=
  let orBad : Option HostOp → Except AsmError HostOp := fun o =>
    match o with
    | some op => .ok op
    | none => .error .badOperand
  let bare : HostOp → Except AsmError HostOp := fun op => if rest.isEmpty then .ok op else .error .badOperand
  if word = "LOAD.B".toList then orBad ((quotedBits rest).map .writeBitin)
  else if word = "LOAD.S".toList then orBad ((sampleList rest).map .writeSampin)
  else if word = "LOAD.W".toList then orBad ((pointList rest).map .writeWavein)
  else if word = "XFER.B".toList then bare .xferB
  else if word = "XFER.W".toList then bare .xferW
  else if word = "READ".toList then orBad ((readTarget rest).map .read)
  else if word = ".cw".toList then
    orBad ((assembleWord rest).map fun w => .issue { cw := w, args := assemblerDefaults })
  else
    match commandNamed word with
    | some i => orBad (assembleCommand i rest)
    | none => .error .unknownMnemonic

/-- One line of a program (30_encoding.md R80): `none` for a line that holds no command. -/
def assembleLine (line : List Char) : Except AsmError (Option HostOp) :=
  let text := trimText (withoutComment line)
  if text.isEmpty then .ok none
  else
    let word := text.takeWhile fun ch => !ch.isWhitespace
    let rest := trimText (text.dropWhile fun ch => !ch.isWhitespace)
    (assembleWords word rest).map some

/-- A program, line by line, as the host operations it stands for. -/
def assemble : List (List Char) → Except AsmError (List HostOp)
  | [] => .ok []
  | line :: lines =>
    match assembleLine line, assemble lines with
    | .ok (some op), .ok ops => .ok (op :: ops)
    | .ok none, .ok ops => .ok ops
    | .error e, _ => .error e
    | _, .error e => .error e

end Sys2Proof.Machine
end

