-- ==== Sys2Proof/Safety.lean ====
section
/-!
DEFINITION. What holds of a state between steps, in the terms claims use: the Waveform invariants (10_state.md R35),
the codes `STATUS` can hold (60_exceptions.md R200, R201), what a failure leaves (R207), and the capacity of the
output buffers (20_memory.md R53).
-/

namespace Sys2Proof.Machine

/-- "time values are non-decreasing" (10_state.md R35). -/
def NonDecreasingTimes (w : Wave) : Prop := w.Pairwise fun p q => p.time ≤ q.time

/-- A Waveform value: times non-negative and non-decreasing (10_state.md R35). -/
def IsWaveform (w : Wave) : Prop := (∀ p ∈ w, 0 ≤ p.time) ∧ NonDecreasingTimes w

/-- Every level is -1, 0 or +1 (41_line_encoder.md R116). -/
def TernaryLevels (w : Wave) : Prop := ∀ p ∈ w, p.level = -1 ∨ p.level = 0 ∨ p.level = 1

/-- All five result items cleared (60_exceptions.md R207, R208). -/
def ResultsCleared (s : State) : Prop :=
  s.bitout = [] ∧ s.waveout = [] ∧ s.rptPalStart = 0 ∧ s.rptPalLen = 0 ∧ s.rptZrun = 0

/-- The codes the block writes: 0, 2 and 4 to 8 (60_exceptions.md R200, R201). -/
def StatusWritable (c : BitVec 4) : Prop := c = 0 ∨ c = 2 ∨ c = 4 ∨ c = 5 ∨ c = 6 ∨ c = 7 ∨ c = 8

/-- The invariant every step keeps. -/
structure State.Inv (s : State) : Prop where
  waveform : IsWaveform s.waveout
  ternary : TernaryLevels s.waveout
  halfUnits : ∀ p ∈ s.waveout, ∃ k : Nat, p.time = (k : R) / 2
  status : StatusWritable s.status
  failureLeavesNothing : s.status ≠ 0 → ResultsCleared s
  oneKindOfResult : s.bitout = [] ∨ s.waveout = []
  reportAlone : s.bitout ≠ [] ∨ s.waveout ≠ [] → s.rptPalStart = 0 ∧ s.rptPalLen = 0 ∧ s.rptZrun = 0
  bitoutFits : fitsCapacity s.config s.bitout.length = true
  waveoutFits : fitsCapacity s.config s.waveout.length = true
  workEmpty : s.work = none

/-- A step that does not stop the machine. -/
def Runs (s : State) : Prop := ∃ t, step s = .next t

end Sys2Proof.Machine
end

