-- ==== Sys2Proof/WellFormed.lean ====
section
/-!
DEFINITION. Well-formedness of what the host presents. A command has no operand in its word, so every `Instr` is
well formed by type; what can be ill formed is a command frame: a reserved control word (30_encoding.md R77) or an
operand register the command uses outside its legal values (10_state.md R22). An ill-formed frame still executes, as
a failure (60_exceptions.md R205, R206); these checks say which frames the spec calls legal.
-/

namespace Sys2Proof

/-- 30_encoding.md R77, by arithmetic on the word's number: `CW[15:9] ≠ 0`; `OP` is 0 or 6 to 15; `SCHEME` is 5 to
7; `SCR` is 3; `OP` is 3, 4 or 5 with `SCHEME ≠ 0` or `SCR ≠ 0`. -/
def reservedWord (w : Word) : Bool :=
  let op := w.toNat % 16
  let scheme := w.toNat / 16 % 8
  let scr := w.toNat / 128 % 4
  let upper := w.toNat / 512
  upper != 0 || op == 0 || 6 ≤ op || 5 ≤ scheme || scr == 3 || (3 ≤ op && (scheme != 0 || scr != 0))

/-- Legal `PCM` operands: `A_BPS >= 1` and `A_LO < A_HI` (10_state.md R22). -/
def Args.legalForPcm (a : Args) : Bool := decide (1 ≤ a.bps) && decide (a.lo < a.hi)

/-- A legal `DM` operand: `A_STEP > 0` (10_state.md R22). -/
def Args.legalForDm (a : Args) : Bool := decide (0 < a.step)

/-- A command ignores the operand registers it does not use (10_state.md R22). -/
def Instr.legalArgs (i : Instr) (a : Args) : Bool :=
  match i with
  | .pcm => a.legalForPcm
  | .dm => a.legalForDm
  | .encNrzl | .encNrzi | .encMan | .encDman | .encAmi | .encAmiB8zs | .encAmiHdb3 | .decNrzl | .decNrzi | .decMan
  | .decDman | .decAmi | .analyze | .encNrzlB8zs | .encNrziB8zs | .encManB8zs | .encDmanB8zs | .encNrzlHdb3
  | .encNrziHdb3 | .encManHdb3 | .encDmanHdb3 | .decNrzlB8zs | .decNrziB8zs | .decManB8zs | .decDmanB8zs
  | .decAmiB8zs | .decNrzlHdb3 | .decNrziHdb3 | .decManHdb3 | .decDmanHdb3 | .decAmiHdb3 => true

/-- A frame is well formed when its word is not reserved and the operands its command uses are legal. -/
def Frame.wellFormed (f : Frame) : Bool :=
  !reservedWord f.cw &&
  (f.cw.toNat != 4 || f.args.legalForPcm) &&
  (f.cw.toNat != 5 || f.args.legalForDm)

end Sys2Proof
end

