-- ==== Sys2Proof/Certificates/Slice0/Obligations.lean ====
section
/-!
DEFINITION. The statements about the model. First the words they are written in (`Sys2Proof.Spec`), each a reading of a
rule of the spec that does not go through the model's own definitions of the algorithms; then the statements.
-/

namespace Sys2Proof.Spec

open Sys2Proof.Machine

/-- `n` elements fit a buffer: they pass no finite `NMAX` (20_memory.md R53). -/
def Fits (s : State) (n : Nat) : Prop := ∀ m, s.config.nmax = some m → n ≤ m

/-- The state after a command that succeeds with `BITOUT = bits`: nothing else of the block is different but the
cleared results, `STATUS = 0` and the frame and working registers, which are gone. -/
def afterBits (s : State) (bits : List Bit) : State :=
  { s with frame := none, work := none, status := 0, bitout := bits, waveout := [], rptPalStart := 0,
           rptPalLen := 0, rptZrun := 0 }

/-- The state after a command that succeeds with `WAVEOUT = w`. -/
def afterWave (s : State) (w : Wave) : State :=
  { s with frame := none, work := none, status := 0, bitout := [], waveout := w, rptPalStart := 0,
           rptPalLen := 0, rptZrun := 0 }

/-- The state after a command that succeeds with the three report registers written. -/
def afterReport (s : State) (start len zrun : Nat) : State :=
  { s with frame := none, work := none, status := 0, bitout := [], waveout := [], rptPalStart := start,
           rptPalLen := len, rptZrun := zrun }

/-- The state after a command that fails with `code`: results cleared, `STATUS = code` (60_exceptions.md R207). -/
def afterFailure (s : State) (code : BitVec 4) : State :=
  { s with frame := none, work := none, status := code, bitout := [], waveout := [], rptPalStart := 0,
           rptPalLen := 0, rptZrun := 0 }

/-- The waveform of a list of levels, each held for `d`: `(0,L0) (d,L0) (d,L1) (2d,L1) ...` (20_memory.md R55,
95_test_vectors.md "level list"). -/
def heldLevels (d : R) (levels : List R) : Wave :=
  levels.zipIdx.flatMap fun lk => [⟨(lk.2 : R) * d, lk.1⟩, ⟨((lk.2 : R) + 1) * d, lk.1⟩]

/-- +1 for an even number of inversions, -1 for an odd one. -/
def parityLevel (inversions : Nat) : R := if inversions % 2 = 0 then 1 else -1

/-- NRZ-L: `+1` for 1, `-1` for 0 (41_line_encoder.md R111). -/
def nrzlLevels (bits : List Bit) : List R := bits.map fun b => if b then 1 else -1

/-- NRZ-I: the level of interval `k` is +1 inverted once for each 1 among bits 0 to `k` (41_line_encoder.md R112). -/
def nrziLevels (bits : List Bit) : List R :=
  (List.range bits.length).map fun k => parityLevel ((bits.take (k + 1)).count true)

/-- Manchester: two half-bit levels per bit (41_line_encoder.md R113). -/
def manLevels (bits : List Bit) : List R := bits.flatMap fun b => if b then [1, -1] else [-1, 1]

/-- Differential Manchester: the first-half level of interval `k` is +1 inverted once for each 0 among bits 0 to `k`
(41_line_encoder.md R114). -/
def dmanLevels (bits : List Bit) : List R :=
  (List.range bits.length).flatMap fun k =>
    [parityLevel ((bits.take (k + 1)).count false), -parityLevel ((bits.take (k + 1)).count false)]

/-- AMI: 0 for a 0; the 1 bits alternate, the first +1 (41_line_encoder.md R115). -/
def amiLevels (bits : List Bit) : List R :=
  (List.range bits.length).map fun k =>
    if bits[k]? = some true then parityLevel ((bits.take k).count true) else 0

/-- The registers and the emitted levels of the loop of 42_scramble.md R131, by input index. -/
structure B8zsLoop where
  i : Nat
  pol : R
  lastNZ : R
  levels : List R

/-- One turn of the `while` loop of 42_scramble.md R131. -/
def b8zsTurn (bits : List Bit) (r : B8zsLoop) : B8zsLoop :=
  if r.i + 8 ≤ bits.length ∧ ∀ k, k < 8 → bits[r.i + k]? = some false then
    let v := if r.lastNZ = 0 then 1 else r.lastNZ
    let b := -v
    let v' := if b = 0 then 1 else b
    let b' := -v'
    { i := r.i + 8, pol := -(-r.pol), lastNZ := b', levels := r.levels ++ [0, 0, 0, v, b, 0, v', b'] }
  else
    match bits[r.i]? with
    | some true => { i := r.i + 1, pol := -r.pol, lastNZ := -r.pol, levels := r.levels ++ [-r.pol] }
    | some false => { r with i := r.i + 1, levels := r.levels ++ [0] }
    | none => r

/-- The levels of `ENC.AMI.B8ZS`: the loop of 42_scramble.md R131 run until `i` reaches the input length (a turn
advances `i`, so as many turns as bits are enough, and a turn at the end changes nothing). -/
def b8zsLevels (bits : List Bit) : List R :=
  ((b8zsTurn bits)^[bits.length] { i := 0, pol := -1, lastNZ := 0, levels := [] }).levels

/-- The registers and the emitted levels of the loop of 42_scramble.md R136, by input index. -/
structure Hdb3Loop where
  i : Nat
  lastP : R
  marks : Nat
  levels : List R

/-- One turn of the `while` loop of 42_scramble.md R136. -/
def hdb3Turn (bits : List Bit) (r : Hdb3Loop) : Hdb3Loop :=
  let p := if r.lastP = 0 then 1 else r.lastP
  if r.i + 4 ≤ bits.length ∧ ∀ k, k < 4 → bits[r.i + k]? = some false then
    if r.marks % 2 = 0 then { i := r.i + 4, lastP := -p, marks := 0, levels := r.levels ++ [-p, 0, 0, -p] }
    else { i := r.i + 4, lastP := p, marks := 0, levels := r.levels ++ [0, 0, 0, p] }
  else
    match bits[r.i]? with
    | some true => { i := r.i + 1, lastP := -p, marks := r.marks + 1, levels := r.levels ++ [-p] }
    | some false => { r with i := r.i + 1, levels := r.levels ++ [0] }
    | none => r

/-- The levels of `ENC.AMI.HDB3`: the loop of 42_scramble.md R136 run until `i` reaches the input length. -/
def hdb3Levels (bits : List Bit) : List R :=
  ((hdb3Turn bits)^[bits.length] { i := 0, lastP := -1, marks := 0, levels := [] }).levels

/-- `k` zero bits at index `i`, wholly inside the input (42_scramble.md R130). -/
def ZerosAt (bits : List Bit) (i k : Nat) : Prop := ∀ j, j < k → bits[i + j]? = some false

/-- `L` is `LevelAt(tx)` on `w` (20_memory.md R56): the level of the first point whose time is `>= tx`; the last
point's level when there is none. -/
def IsLevelAt (w : Wave) (tx L : R) : Prop :=
  (∃ (k : Nat) (p : Point), w[k]? = some p ∧ tx ≤ p.time ∧ p.level = L ∧
    ∀ (j : Nat) (q : Point), j < k → w[j]? = some q → q.time < tx) ∨
  ((∀ p ∈ w, p.time < tx) ∧ ∃ p, w.getLast? = some p ∧ p.level = L)

/-- The number of intervals of a waveform whose last point's time is `t`: `floor(t + 1/2)`, none when that is negative
(43_line_decoder.md R150, R158 (b)). -/
def intervalsOf (t : R) : Nat := ⌊t + 1 / 2⌋.toNat

/-- A DEC command on a waveform whose last point is `q`, at a time not negative, completes with `N` bits, bit `b` being
1 exactly when `decides b` holds (43_line_decoder.md R150 to R156). `round` is stated for such times only (00_scope.md
R12) and the host owes them (20_memory.md R57); a negative final time is `Obligations.DecodingNoInterval`'s (log 9). -/
def DecodesBy (i : Instr) (decides : Wave → Nat → Prop) : Prop :=
  ∀ (s : State) (q : Point), s.wavein.getLast? = some q → 0 ≤ q.time → Fits s s.wavein.length →
    Fits s (intervalsOf q.time) →
    ∃ bits : List Bit, exec i s = .next (afterBits s bits) ∧ bits.length = intervalsOf q.time ∧
      ∀ b, b < intervalsOf q.time → (bits[b]? = some true ↔ decides s.wavein b)

/-- `s[a..a+len)` is a palindrome (44_analyzer.md R171). -/
def PalindromeAt (s : List Bit) (a len : Nat) : Prop :=
  a + len ≤ s.length ∧ ∀ k, k < len → s[a + k]? = s[a + len - 1 - k]?

/-- `s[a..a+len)` is all zeros (44_analyzer.md R174). -/
def ZeroRunAt (s : List Bit) (a len : Nat) : Prop :=
  a + len ≤ s.length ∧ ∀ k, k < len → s[a + k]? = some false

/-- The seven ENC commands with an operation, with the number of points each emits per bit (41_line_encoder.md
R116). -/
def encCommands : List (Instr × Nat) :=
  [ (.encNrzl, 2), (.encNrzi, 2), (.encMan, 4), (.encDman, 4), (.encAmi, 2), (.encAmiB8zs, 2), (.encAmiHdb3, 2) ]

/-- The five DEC commands with an operation. -/
def decCommands : List Instr := [ .decNrzl, .decNrzi, .decMan, .decDman, .decAmi ]

/-- The encodings a decoder inverts exactly, with the points per bit (41_line_encoder.md R116, 43_line_decoder.md
R157). -/
def exactPairs : List (Instr × Instr × Nat) := [ (.encNrzl, .decNrzl, 2), (.encMan, .decMan, 4), (.encAmi, .decAmi, 2) ]

/-- `trimmed` is `text` without its leading and trailing white space (45_host_frontend.md R192): only white space is
removed, at the two ends, and neither end of what stays is white space. White space is `Char.isWhitespace`, the model's
choice (log 11). -/
def IsTrimOf (text trimmed : List Char) : Prop :=
  ∃ before after : List Char,
    text = before ++ trimmed ++ after ∧ (∀ ch ∈ before, ch.isWhitespace = true) ∧
    (∀ ch ∈ after, ch.isWhitespace = true) ∧ (∀ ch, trimmed.head? = some ch → ch.isWhitespace = false) ∧
    (∀ ch, trimmed.getLast? = some ch → ch.isWhitespace = false)

/-- The values of the tokens that are not empty and spell a number, in order (45_host_frontend.md R192). -/
def spelledValues (spelling : List Char → Option R) (tokens : List (List Char)) : List R :=
  (tokens.filter fun tk => tk ≠ []).filterMap spelling

end Sys2Proof.Spec

open Sys2Proof Sys2Proof.Machine Sys2Proof.Spec

/-! ## Encoding -/

/-- 30_encoding.md R71. -/
def Obligations.ControlWordFields : Prop :=
  ∀ w : Word,
    w.toNat = (zeroField w).toNat * 512 + (scrField w).toNat * 128 + (schemeField w).toNat * 16 + (opField w).toNat

/-- 30_encoding.md R74, R75: some words of each family, with the field bits written out. -/
def Obligations.TableWordsDecode : Prop :=
  decode 0b0000000000000100#16 = .ok .pcm ∧ decode 0b0000000000000101#16 = .ok .dm ∧
  decode 0b0000000000010001#16 = .ok .encNrzi ∧ decode 0b0000000011000001#16 = .ok .encAmiB8zs ∧
  decode 0b0000000000110010#16 = .ok .decDman ∧ decode 0b0000000000000011#16 = .ok .analyze ∧
  decode 0b0000000010100001#16 = .ok .encManB8zs ∧ decode 0b0000000101000010#16 = .ok .decAmiHdb3 ∧
  decode 0b0000000111000001#16 = .error .reservedSelector

/-- Decoding and encoding agree on every word, and exactly the reserved words (30_encoding.md R77) are rejected. -/
def Obligations.DecodeInvertsEncode : Prop :=
  (∀ i : Instr, decode (encode i) = .ok i) ∧
  (∀ (w : Word) (i : Instr), decode w = .ok i → encode i = w) ∧
  (∀ w : Word, reservedWord w = true ↔ ∃ r, decode w = .error r)

/-- 30_encoding.md R77, 60_exceptions.md R205. -/
def Obligations.ReservedWordIsIllegalCommand : Prop :=
  ∀ (s : State) (f : Frame), s.frame = some f → reservedWord f.cw = true → step s = .next (afterFailure s 6)

/-! ## Steps, the host and reset -/

/-- A step runs the decoded command, and adds nothing around it. -/
def Obligations.StepRunsPresentedCommand : Prop :=
  ∀ (s : State) (f : Frame) (i : Instr), s.frame = some f → decode f.cw = .ok i → step s = exec i s

/-- Between commands the host's operations happen in order; with none left the block waits (the schedule is the
model's own, log 1). -/
def Obligations.HostActsBetweenCommands : Prop :=
  ∀ s : State, s.frame = none →
    (∀ op rest, s.schedule = op :: rest → step s = performHostOp op { s with schedule := rest }) ∧
    (s.schedule = [] → step s = .next s)

/-- The host's writes, copies and issue (20_memory.md R58, 30_encoding.md R83, 70_reset_and_hazards.md R236). -/
def Obligations.HostWritesAndCopies : Prop :=
  ∀ s : State,
    (∀ seq, performHostOp (.writeBitin seq) s = .next { s with bitin := seq }) ∧
    (∀ seq, performHostOp (.writeSampin seq) s = .next { s with sampin := seq }) ∧
    (∀ seq, performHostOp (.writeWavein seq) s = .next { s with wavein := seq }) ∧
    performHostOp .xferB s = .next { s with bitin := s.bitout } ∧
    performHostOp .xferW s = .next { s with wavein := s.waveout } ∧
    (∀ f, performHostOp (.issue f) s = .next { s with frame := some f })

/-- 20_memory.md R58: no host operation but the reset event touches what only the engine writes. -/
def Obligations.HostCannotWriteResults : Prop :=
  ∀ (op : HostOp) (s t : State), op ≠ .reset → performHostOp op s = .next t →
    t.bitout = s.bitout ∧ t.waveout = s.waveout ∧ t.rptPalStart = s.rptPalStart ∧ t.rptPalLen = s.rptPalLen ∧
    t.rptZrun = s.rptZrun ∧ t.status = s.status ∧ t.work = s.work ∧ t.config = s.config

/-- 20_memory.md R52, R61: a host read changes nothing of the block; it adds the value read to what the host has seen
(the model's own record, log 5). -/
def Obligations.HostReadsHaveNoSideEffect : Prop :=
  ∀ (r : HostRead) (s t : State), performHostOp (.read r) s = .next t → ∃ v, t = { s with seen := s.seen ++ [v] }

/-- The value each host read returns (20_memory.md R58: an element, a length, a report register, `STATUS`;
30_encoding.md R83: a whole buffer); a read past a buffer's end faults (log 6). -/
def Obligations.HostReadValues : Prop :=
  ∀ s : State,
    (∀ k b, s.bitin[k]? = some b → hostRead (.element .bitin k) s = .next { s with seen := s.seen ++ [.bit b] }) ∧
    (∀ k x, s.sampin[k]? = some x → hostRead (.element .sampin k) s = .next { s with seen := s.seen ++ [.real x] }) ∧
    (∀ k p, s.wavein[k]? = some p → hostRead (.element .wavein k) s = .next { s with seen := s.seen ++ [.point p] }) ∧
    (∀ k b, s.bitout[k]? = some b → hostRead (.element .bitout k) s = .next { s with seen := s.seen ++ [.bit b] }) ∧
    (∀ k p, s.waveout[k]? = some p →
      hostRead (.element .waveout k) s = .next { s with seen := s.seen ++ [.point p] }) ∧
    (∀ x k, bufferLength x s ≤ k → hostRead (.element x k) s = .fault (.noSuchElement x k)) ∧
    hostRead (.length .bitin) s = .next { s with seen := s.seen ++ [.nat s.bitin.length] } ∧
    hostRead (.length .sampin) s = .next { s with seen := s.seen ++ [.nat s.sampin.length] } ∧
    hostRead (.length .wavein) s = .next { s with seen := s.seen ++ [.nat s.wavein.length] } ∧
    hostRead (.length .bitout) s = .next { s with seen := s.seen ++ [.nat s.bitout.length] } ∧
    hostRead (.length .waveout) s = .next { s with seen := s.seen ++ [.nat s.waveout.length] } ∧
    hostRead (.contents .bitin) s = .next { s with seen := s.seen ++ [.bits s.bitin] } ∧
    hostRead (.contents .sampin) s = .next { s with seen := s.seen ++ [.reals s.sampin] } ∧
    hostRead (.contents .wavein) s = .next { s with seen := s.seen ++ [.wave s.wavein] } ∧
    hostRead (.contents .bitout) s = .next { s with seen := s.seen ++ [.bits s.bitout] } ∧
    hostRead (.contents .waveout) s = .next { s with seen := s.seen ++ [.wave s.waveout] } ∧
    hostRead .status s = .next { s with seen := s.seen ++ [.code s.status] } ∧
    hostRead .rptPalStart s = .next { s with seen := s.seen ++ [.nat s.rptPalStart] } ∧
    hostRead .rptPalLen s = .next { s with seen := s.seen ++ [.nat s.rptPalLen] } ∧
    hostRead .rptZrun s = .next { s with seen := s.seen ++ [.nat s.rptZrun] }

/-- 10_state.md R34. -/
def Obligations.ResetStateIsTheTable : Prop :=
  State.reset.status = 0 ∧
  State.reset.rptPalStart = 0 ∧ State.reset.rptPalLen = 0 ∧ State.reset.rptZrun = 0 ∧
  State.reset.bitin = [] ∧ State.reset.sampin = [] ∧ State.reset.wavein = [] ∧
  State.reset.bitout = [] ∧ State.reset.waveout = [] ∧
  State.reset.frame = none ∧ State.reset.work = none

/-- 70_reset_and_hazards.md R230: the reset event, from any state between commands. -/
def Obligations.ResetEventRestoresTheTable : Prop :=
  ∀ (s : State) (rest : List HostOp), s.frame = none → s.schedule = .reset :: rest →
    step s = .next { State.reset with config := s.config, schedule := rest, seen := s.seen }

/-- No step refuses, and the only fault is a host read past a buffer's end: no command stops the machine
(60_exceptions.md R207). -/
def Obligations.NoCommandStopsTheMachine : Prop :=
  (∀ (s : State) (r : Refusal), step s ≠ .refused r) ∧
  (∀ (s : State) (e : Fault), step s = .fault e →
    ∃ x k rest, s.frame = none ∧ s.schedule = .read (.element x k) :: rest ∧ bufferLength x s ≤ k ∧
      e = .noSuchElement x k)

/-- PCM and DM have no operands where no frame is presented (the model's choice, log 7). -/
def Obligations.OperandsNeedAFrame : Prop :=
  ∀ s : State, s.frame = none →
    exec .pcm s = .refused .noCommandFrame ∧ exec .dm s = .refused .noCommandFrame

/-! ## What every command does -/

/-- 10_state.md R22, R26, R32: what no command changes, and what none leaves behind. -/
def Obligations.CommandKeepsInputs : Prop :=
  ∀ (i : Instr) (s t : State), exec i s = .next t →
    t.bitin = s.bitin ∧ t.sampin = s.sampin ∧ t.wavein = s.wavein ∧ t.config = s.config ∧
    t.schedule = s.schedule ∧ t.seen = s.seen ∧ t.frame = none ∧ t.work = none

/-- 60_exceptions.md R207: after a failed command the state is a function of the code alone. -/
def Obligations.FailureLeavesOnlyItsCode : Prop :=
  ∀ (i : Instr) (s t : State), exec i s = .next t → t.status ≠ 0 → t = afterFailure s t.status

/-- 70_reset_and_hazards.md R231: a command's results depend only on its frame and the input buffers. -/
def Obligations.ResultsIgnoreEarlierCommands : Prop :=
  ∀ (i : Instr) (s s' t : State), s.frame = s'.frame → s.bitin = s'.bitin → s.sampin = s'.sampin →
    s.wavein = s'.wavein → s.config = s'.config → exec i s = .next t →
    ∃ t', exec i s' = .next t' ∧ t'.bitout = t.bitout ∧ t'.waveout = t.waveout ∧ t'.rptPalStart = t.rptPalStart ∧
      t'.rptPalLen = t.rptPalLen ∧ t'.rptZrun = t.rptZrun ∧ t'.status = t.status

/-- 10_state.md R22: a command ignores the operand registers it does not use. -/
def Obligations.UnusedOperandsIgnored : Prop :=
  (∀ (i : Instr) (s : State) (fr : Option Frame), i ≠ .pcm → i ≠ .dm → exec i { s with frame := fr } = exec i s) ∧
  (∀ (s : State) (f g : Frame), f.args.bps = g.args.bps → f.args.lo = g.args.lo → f.args.hi = g.args.hi →
    exec .pcm { s with frame := some f } = exec .pcm { s with frame := some g }) ∧
  (∀ (s : State) (f g : Frame), f.args.step = g.args.step →
    exec .dm { s with frame := some f } = exec .dm { s with frame := some g })

/-- The invariant of Sys2Proof/Safety.lean: Waveform, `STATUS`, failure and capacity facts (10_state.md R35,
20_memory.md R53, R54, 60_exceptions.md R201, R207). -/
def Obligations.StepKeepsInvariant : Prop :=
  ∀ s t : State, s.Inv → step s = .next t → t.Inv

/-- The invariant holds after reset. -/
def Obligations.ResetMeetsInvariant : Prop := State.reset.Inv

/-! ## Front ends -/

/-- `PCM` (40_bitsource.md R90, R91): code `q` of the clamped sample `c` is the one with
`lo + q (hi - lo) / M <= c < lo + (q + 1) (hi - lo) / M`, `M = 2^bps - 1`, emitted most significant bit first; illegal
parameters fail first. -/
def Obligations.PcmQuantizes : Prop :=
  decode 0x0004#16 = .ok .pcm ∧
  ∀ (s : State) (f : Frame), s.frame = some f →
    (f.args.bps < 1 ∨ f.args.hi ≤ f.args.lo → exec .pcm s = .next (afterFailure s 7)) ∧
    (1 ≤ f.args.bps → f.args.lo < f.args.hi → Fits s s.sampin.length → Fits s (f.args.bps * s.sampin.length) →
      ∃ bits : List Bit, exec .pcm s = .next (afterBits s bits) ∧ bits.length = f.args.bps * s.sampin.length ∧
        ∀ (k : Nat) (x : R), s.sampin[k]? = some x →
          ∃ q : Nat, q < 2 ^ f.args.bps ∧
            f.args.lo + q * (f.args.hi - f.args.lo) / (2 ^ f.args.bps - 1) ≤ min (max x f.args.lo) f.args.hi ∧
            min (max x f.args.lo) f.args.hi < f.args.lo + (q + 1) * (f.args.hi - f.args.lo) / (2 ^ f.args.bps - 1) ∧
            ∀ j, j < f.args.bps → bits[k * f.args.bps + j]? = some (q.testBit (f.args.bps - 1 - j)))

/-- `DM` (40_bitsource.md R93): the approximation before sample `k + 1` is the first sample plus `step` for each 1 and
minus `step` for each 0 among the bits before; the parameter check fails before the empty-input check (R94 (a)). -/
def Obligations.DmTracksTheInput : Prop :=
  decode 0x0005#16 = .ok .dm ∧
  ∀ (s : State) (f : Frame), s.frame = some f →
    (f.args.step ≤ 0 → exec .dm s = .next (afterFailure s 7)) ∧
    (0 < f.args.step → s.sampin = [] → exec .dm s = .next (afterFailure s 2)) ∧
    (∀ (x₀ : R) (rest : List R), 0 < f.args.step → s.sampin = x₀ :: rest → Fits s s.sampin.length →
      ∃ bits : List Bit, exec .dm s = .next (afterBits s bits) ∧ bits.length = rest.length ∧
        ∀ (k : Nat) (x : R), rest[k]? = some x →
          (bits[k]? = some true ↔
            x₀ + f.args.step * (((bits.take k).count true : R) - ((bits.take k).count false : R)) ≤ x))

/-- 40_bitsource.md R92 (b), R94 (b): no sample to quantize, one sample to track. -/
def Obligations.FrontEndsWithNoBits : Prop :=
  ∀ (s : State) (f : Frame), s.frame = some f →
    (1 ≤ f.args.bps → f.args.lo < f.args.hi → s.sampin = [] → exec .pcm s = .next (afterBits s [])) ∧
    (∀ x, 0 < f.args.step → s.sampin = [x] → Fits s 1 → exec .dm s = .next (afterBits s []))

/-! ## Line encoders -/

/-- `ENC.NRZL` (41_line_encoder.md R111). -/
def Obligations.EncNrzlResult : Prop :=
  decode 0x0001#16 = .ok .encNrzl ∧
  ∀ s : State, Fits s (2 * s.bitin.length) →
    exec .encNrzl s = .next (afterWave s (heldLevels 1 (nrzlLevels s.bitin)))

/-- `ENC.NRZI` (41_line_encoder.md R112). -/
def Obligations.EncNrziResult : Prop :=
  decode 0x0011#16 = .ok .encNrzi ∧
  ∀ s : State, Fits s (2 * s.bitin.length) →
    exec .encNrzi s = .next (afterWave s (heldLevels 1 (nrziLevels s.bitin)))

/-- `ENC.MAN` (41_line_encoder.md R113). -/
def Obligations.EncManResult : Prop :=
  decode 0x0021#16 = .ok .encMan ∧
  ∀ s : State, Fits s (4 * s.bitin.length) →
    exec .encMan s = .next (afterWave s (heldLevels (1 / 2) (manLevels s.bitin)))

/-- `ENC.DMAN` (41_line_encoder.md R114). -/
def Obligations.EncDmanResult : Prop :=
  decode 0x0031#16 = .ok .encDman ∧
  ∀ s : State, Fits s (4 * s.bitin.length) →
    exec .encDman s = .next (afterWave s (heldLevels (1 / 2) (dmanLevels s.bitin)))

/-- `ENC.AMI` (41_line_encoder.md R115). -/
def Obligations.EncAmiResult : Prop :=
  decode 0x0041#16 = .ok .encAmi ∧
  ∀ s : State, Fits s (2 * s.bitin.length) →
    exec .encAmi s = .next (afterWave s (heldLevels 1 (amiLevels s.bitin)))

/-- What 41_line_encoder.md R116 derives from R110 and R55: point count, final time and levels of every ENC command. -/
def Obligations.EncoderGeometry : Prop :=
  ∀ (s : State) (i : Instr) (perBit : Nat), (i, perBit) ∈ encCommands → Fits s (perBit * s.bitin.length) →
    ∃ t, exec i s = .next t ∧ t.status = 0 ∧ t.waveout.length = perBit * s.bitin.length ∧
      (∀ p, t.waveout.getLast? = some p → p.time = s.bitin.length) ∧
      (∀ p ∈ t.waveout, p.level = -1 ∨ p.level = 0 ∨ p.level = 1) ∧
      (i = .encNrzl ∨ i = .encNrzi ∨ i = .encMan ∨ i = .encDman → ∀ p ∈ t.waveout, p.level ≠ 0)

/-- 41_line_encoder.md R117. -/
def Obligations.EncodingNothing : Prop :=
  ∀ (s : State) (i : Instr) (perBit : Nat), (i, perBit) ∈ encCommands → s.bitin = [] →
    exec i s = .next (afterWave s [])

/-! ## Substitution -/

/-- `ENC.AMI.B8ZS` (42_scramble.md R131). -/
def Obligations.EncAmiB8zsResult : Prop :=
  decode 0x00C1#16 = .ok .encAmiB8zs ∧
  ∀ s : State, Fits s (2 * s.bitin.length) →
    exec .encAmiB8zs s = .next (afterWave s (heldLevels 1 (b8zsLevels s.bitin)))

/-- `ENC.AMI.HDB3` (42_scramble.md R136). -/
def Obligations.EncAmiHdb3Result : Prop :=
  decode 0x0141#16 = .ok .encAmiHdb3 ∧
  ∀ s : State, Fits s (2 * s.bitin.length) →
    exec .encAmiHdb3 s = .next (afterWave s (heldLevels 1 (hdb3Levels s.bitin)))

/-- What 42_scramble.md R132 derives from R131: a window at `p = lastNZ` (taken +1 when 0) has the levels
`0 0 0 p -p 0 -p p`, leaves `lastNZ` at `p` and leaves `pol` as it was. -/
def Obligations.B8zsWindowEffect : Prop :=
  ∀ r : EncRegs,
    ((b8zsWindow r).2.map Point.level) =
      [0, 0, 0, 0, 0, 0] ++
      (List.replicate 2 (sgnLevel (zeroDefaultsToPlus r.lastNZ)) ++
       List.replicate 2 (-sgnLevel (zeroDefaultsToPlus r.lastNZ)) ++ [0, 0] ++
       List.replicate 2 (-sgnLevel (zeroDefaultsToPlus r.lastNZ)) ++
       List.replicate 2 (sgnLevel (zeroDefaultsToPlus r.lastNZ))) ∧
    (b8zsWindow r).1 = { r with i := r.i + 8, t := (b8zsWindow r).1.t, lastNZ := zeroDefaultsToPlus r.lastNZ } ∧
    (b8zsWindow r).1.t = r.t + 8

/-- 42_scramble.md R134, for the whole output: no eight consecutive intervals are at level 0. -/
def Obligations.B8zsNeverEightZeros : Prop :=
  ∀ (s t : State) (k : Nat), exec .encAmiB8zs s = .next t → t.status = 0 → k + 8 ≤ s.bitin.length →
    ∃ (j : Nat) (p : Point), j < 8 ∧ t.waveout[2 * (k + j)]? = some p ∧ p.level ≠ 0

/-- 42_scramble.md R139, for the whole output: no four consecutive intervals are at level 0. -/
def Obligations.Hdb3NeverFourZeros : Prop :=
  ∀ (s t : State) (k : Nat), exec .encAmiHdb3 s = .next t → t.status = 0 → k + 4 ≤ s.bitin.length →
    ∃ (j : Nat) (p : Point), j < 4 ∧ t.waveout[2 * (k + j)]? = some p ∧ p.level ≠ 0

/-- 42_scramble.md R133 (a), R138 (b): without a window to substitute, scrambled AMI is plain AMI. -/
def Obligations.ScrambledIsPlainWithoutWindows : Prop :=
  ∀ s : State,
    ((∀ i, ¬ ZerosAt s.bitin i 8) → exec .encAmiB8zs s = exec .encAmi s) ∧
    ((∀ i, ¬ ZerosAt s.bitin i 4) → exec .encAmiHdb3 s = exec .encAmi s)

/-! ## Line decoders -/

/-- 20_memory.md R56. -/
def Obligations.LevelAtIsTheFirstPointAtOrAfter : Prop :=
  ∀ (p : Point) (ps : Wave) (tx L : R), IsLevelAt (p :: ps) tx L ↔ levelAt p ps tx = L

/-- 20_memory.md R56: on an engine-made waveform a query inside a segment returns that segment's level. -/
def Obligations.LevelAtInsideASegment : Prop :=
  ∀ (d : R) (levels : List R) (k : Nat) (L tx : R) (p : Point) (ps : Wave), 0 < d → levels[k]? = some L →
    k * d < tx → tx ≤ (k + 1) * d → heldLevels d levels = p :: ps → levelAt p ps tx = L

/-- `DEC.NRZL` (43_line_decoder.md R152). -/
def Obligations.DecNrzlResult : Prop :=
  decode 0x0002#16 = .ok .decNrzl ∧
  DecodesBy .decNrzl fun w b => ∃ L, IsLevelAt w (b + 1 / 2) L ∧ 0 < L

/-- `DEC.NRZI` (43_line_decoder.md R153). -/
def Obligations.DecNrziResult : Prop :=
  decode 0x0012#16 = .ok .decNrzi ∧
  DecodesBy .decNrzi fun w b =>
    ∃ L₀ L, IsLevelAt w (if b = 0 then 1 / 4 else b - 1 + 99 / 100) L₀ ∧ IsLevelAt w (b + 99 / 100) L ∧
      SignType.sign L ≠ SignType.sign L₀

/-- `DEC.MAN` (43_line_decoder.md R154). -/
def Obligations.DecManResult : Prop :=
  decode 0x0022#16 = .ok .decMan ∧
  DecodesBy .decMan fun w b => ∃ L₁ L₂, IsLevelAt w (b + 1 / 4) L₁ ∧ IsLevelAt w (b + 3 / 4) L₂ ∧ L₂ < L₁

/-- `DEC.DMAN` (43_line_decoder.md R155). -/
def Obligations.DecDmanResult : Prop :=
  decode 0x0032#16 = .ok .decDman ∧
  DecodesBy .decDman fun w b =>
    ∃ L₀ L, IsLevelAt w (if b = 0 then 1 / 2 else b - 1 + 1 / 2) L₀ ∧ IsLevelAt w (b + 1 / 2) L ∧
      SignType.sign L = SignType.sign L₀

/-- `DEC.AMI` (43_line_decoder.md R156). -/
def Obligations.DecAmiResult : Prop :=
  decode 0x0042#16 = .ok .decAmi ∧
  DecodesBy .decAmi fun w b => ∃ L, IsLevelAt w (b + 1 / 2) L ∧ 1 / 1000000 < |L|

/-- What 43_line_decoder.md R158 (b) derives from R150 (for negative times, log 9): a final time below 0.5 decodes to nothing. -/
def Obligations.DecodingNoInterval : Prop :=
  ∀ (s : State) (i : Instr) (q : Point), i ∈ decCommands → s.wavein.getLast? = some q → q.time < 1 / 2 →
    Fits s s.wavein.length → exec i s = .next (afterBits s [])

/-- What 43_line_decoder.md R157 derives from the encoder and decoder rules: NRZ-L, Manchester and AMI give back the
encoded bits. -/
def Obligations.RoundTripExact : Prop :=
  ∀ (s : State) (i j : Instr) (perBit : Nat), (i, j, perBit) ∈ exactPairs → s.bitin ≠ [] →
    Fits s (perBit * s.bitin.length) →
    ∃ t u, exec i s = .next t ∧ exec j { t with wavein := t.waveout } = .next u ∧ u.bitout = s.bitin ∧ u.status = 0

/-- What 43_line_decoder.md R157 derives from the encoder and decoder rules: NRZ-I gives back the bits with bit 0
replaced by 0, Differential Manchester with bit 0 replaced by 1 (90_conflicts.md C1). -/
def Obligations.RoundTripLosesBitZero : Prop :=
  ∀ (s : State) (b : Bit) (bs : List Bit), s.bitin = b :: bs →
    (Fits s (2 * s.bitin.length) → ∃ t u, exec .encNrzi s = .next t ∧ exec .decNrzi { t with wavein := t.waveout } = .next u ∧
      u.bitout = false :: bs ∧ u.status = 0) ∧
    (Fits s (4 * s.bitin.length) → ∃ t u, exec .encDman s = .next t ∧ exec .decDman { t with wavein := t.waveout } = .next u ∧
      u.bitout = true :: bs ∧ u.status = 0)

/-- What 42_scramble.md R140 derives from R156: `DEC.AMI` on a scrambled waveform returns 1 for every non-zero interval. -/
def Obligations.DecAmiRectifiesScrambled : Prop :=
  ∀ (s : State) (i : Instr), i = .encAmiB8zs ∨ i = .encAmiHdb3 → s.bitin ≠ [] → Fits s (2 * s.bitin.length) →
    ∃ t u, exec i s = .next t ∧ exec .decAmi { t with wavein := t.waveout } = .next u ∧
      u.bitout.length = s.bitin.length ∧
      ∀ k p, k < s.bitin.length → t.waveout[2 * k]? = some p → (u.bitout[k]? = some true ↔ p.level ≠ 0)

/-! ## Analyzer -/

/-- `ANALYZE` (44_analyzer.md R170, R171, R174): the longest palindrome, the earliest of its length, and the longest
zero run. The hypothesis is `NMAX` alone (log 10). -/
def Obligations.AnalyzeReportsPalindromeAndZeroRun : Prop :=
  decode 0x0003#16 = .ok .analyze ∧
  ∀ s : State, Fits s s.bitin.length →
    ∃ a len z, exec .analyze s = .next (afterReport s a len z) ∧
      PalindromeAt s.bitin a len ∧
      (∀ a' len', PalindromeAt s.bitin a' len' → len' ≤ len ∧ (len' = len → a ≤ a')) ∧
      (∃ a', ZeroRunAt s.bitin a' z) ∧ (∀ a' z', ZeroRunAt s.bitin a' z' → z' ≤ z)

/-- 10_state.md R25: the palindrome as DCP's string, of `RPT_PAL_LEN` characters, reads the same backwards. -/
def Obligations.ReportedTextIsAPalindrome : Prop :=
  ∀ s t : State, exec .analyze s = .next t → t.status = 0 →
    (longestPalindromeText t).length = t.rptPalLen ∧
    (longestPalindromeText t).reverse = longestPalindromeText t ∧
    ∀ k, k < t.rptPalLen → (longestPalindromeText t)[k]? = (t.bitin[t.rptPalStart + k]?).map chrOfBit

/-- 44_analyzer.md R172, R173: the Manacher engine computes the result of R171. -/
def Obligations.ManacherEngineFindsLongestPalindrome : Prop :=
  ∀ bits : List Bit, manacher bits = longestPalindrome bits

/-! ## Failures -/

/-- 60_exceptions.md R203. -/
def Obligations.ScrambledNonAmiEncodingFails : Prop :=
  ∀ (w : Word) (i : Instr),
    (w, i) ∈ [ (0x0081#16, Instr.encNrzlB8zs), (0x0091#16, .encNrziB8zs), (0x00A1#16, .encManB8zs),
               (0x00B1#16, .encDmanB8zs), (0x0101#16, .encNrzlHdb3), (0x0111#16, .encNrziHdb3),
               (0x0121#16, .encManHdb3), (0x0131#16, .encDmanHdb3) ] →
    decode w = .ok i ∧ ∀ s : State, exec i s = .next (afterFailure s 4)

/-- 60_exceptions.md R204: both causes. -/
def Obligations.DecodingWithoutInverseFails : Prop :=
  (∀ (w : Word) (i : Instr),
    (w, i) ∈ [ (0x0082#16, Instr.decNrzlB8zs), (0x0092#16, .decNrziB8zs), (0x00A2#16, .decManB8zs),
               (0x00B2#16, .decDmanB8zs), (0x00C2#16, .decAmiB8zs), (0x0102#16, .decNrzlHdb3),
               (0x0112#16, .decNrziHdb3), (0x0122#16, .decManHdb3), (0x0132#16, .decDmanHdb3),
               (0x0142#16, .decAmiHdb3) ] →
    decode w = .ok i ∧ ∀ s : State, exec i s = .next (afterFailure s 5)) ∧
  (∀ (i : Instr) (s : State), i ∈ decCommands → s.wavein = [] → exec i s = .next (afterFailure s 5))

/-- 20_memory.md R53, 60_exceptions.md R206, R209: finite `NMAX`, for the commands other than `ANALYZE`. -/
def Obligations.CapacityExceededFails : Prop :=
  ∀ s : State,
    (∀ (i : Instr) (perBit : Nat), (i, perBit) ∈ encCommands → ¬ Fits s (perBit * s.bitin.length) →
      exec i s = .next (afterFailure s 8)) ∧
    (∀ (i : Instr) (q : Point), i ∈ decCommands → s.wavein.getLast? = some q →
      ¬ Fits s s.wavein.length ∨ ¬ Fits s (intervalsOf q.time) → exec i s = .next (afterFailure s 8)) ∧
    (∀ f : Frame, s.frame = some f → 1 ≤ f.args.bps → f.args.lo < f.args.hi →
      ¬ Fits s (f.args.bps * s.sampin.length) → exec .pcm s = .next (afterFailure s 8)) ∧
    (∀ f : Frame, s.frame = some f → 0 < f.args.step → ¬ Fits s s.sampin.length →
      exec .dm s = .next (afterFailure s 8))

/-- `ANALYZE` with an input longer than a finite `NMAX` (log 10). -/
def Obligations.AnalyzeCapacity : Prop :=
  ∀ s : State, ¬ Fits s s.bitin.length → exec .analyze s = .next (afterFailure s 8)

/-- 60_exceptions.md R206: "with the default unbounded `NMAX` it never occurs". -/
def Obligations.UnboundedNeverExceedsCapacity : Prop :=
  ∀ (i : Instr) (s t : State), s.config.nmax = none → exec i s = .next t → t.status ≠ 8

/-! ## The host's text functions -/

/-- 45_host_frontend.md R191. -/
def Obligations.ParseBinaryAcceptsZerosAndOnes : Prop :=
  ∀ text : List Char,
    (∀ bits, parseBinary text = .ok bits ↔ text ≠ [] ∧ text = bits.map chrOfBit) ∧
    (∀ e, parseBinary text = .error e → e = .invalidBitString ∧ (text = [] ∨ ∃ ch ∈ text, ch ≠ '0' ∧ ch ≠ '1'))

/-- 45_host_frontend.md R192: tokens between commas are trimmed (white space as log 11 says), the empty ones discarded,
those that spell no number skipped; `EmptyInput` when nothing remains. -/
def Obligations.ParseAnalogSamplesSkipsBadTokens : Prop :=
  ∀ (spelling : List Char → Option R) (tokens : List (List Char)), tokens ≠ [] → (∀ tk ∈ tokens, ',' ∉ tk) →
    ∃ trimmed : List (List Char), List.Forall₂ IsTrimOf tokens trimmed ∧
      parseAnalogSamples spelling ([','].intercalate tokens) =
        (if spelledValues spelling trimmed = [] then .error .emptyInput else .ok (spelledValues spelling trimmed))

/-- 30_encoding.md R82: a bare mnemonic assembles to its control word with DCP's defaults in all four operand
registers. -/
def Obligations.AssemblerFillsDefaults : Prop :=
  ∀ i : Instr, assembleLine (mnemonicOf i).toList =
    .ok (some (.issue { cw := encode i, args := { bps := 8, lo := -1, hi := 1, step := 1 / 10 } }))
end

