-- ==== Sys2Proof/Laws/State.lean ====
section
/-!
SUPPORT. One lemma per field of `State` per shared update, each true by `rfl` and a simp lemma, so that no later proof
unfolds a record update.
-/

namespace Sys2Proof.Machine

section
variable (s : State)

@[simp] theorem clearResults_config : (clearResults s).config = s.config := rfl
@[simp] theorem clearResults_frame : (clearResults s).frame = s.frame := rfl
@[simp] theorem clearResults_bitin : (clearResults s).bitin = s.bitin := rfl
@[simp] theorem clearResults_sampin : (clearResults s).sampin = s.sampin := rfl
@[simp] theorem clearResults_wavein : (clearResults s).wavein = s.wavein := rfl
@[simp] theorem clearResults_bitout : (clearResults s).bitout = [] := rfl
@[simp] theorem clearResults_waveout : (clearResults s).waveout = [] := rfl
@[simp] theorem clearResults_rptPalStart : (clearResults s).rptPalStart = 0 := rfl
@[simp] theorem clearResults_rptPalLen : (clearResults s).rptPalLen = 0 := rfl
@[simp] theorem clearResults_rptZrun : (clearResults s).rptZrun = 0 := rfl
@[simp] theorem clearResults_status : (clearResults s).status = s.status := rfl
@[simp] theorem clearResults_work : (clearResults s).work = s.work := rfl
@[simp] theorem clearResults_schedule : (clearResults s).schedule = s.schedule := rfl
@[simp] theorem clearResults_seen : (clearResults s).seen = s.seen := rfl

@[simp] theorem loadWork_config (w : Work) : (loadWork w s).config = s.config := rfl
@[simp] theorem loadWork_frame (w : Work) : (loadWork w s).frame = s.frame := rfl
@[simp] theorem loadWork_bitin (w : Work) : (loadWork w s).bitin = s.bitin := rfl
@[simp] theorem loadWork_sampin (w : Work) : (loadWork w s).sampin = s.sampin := rfl
@[simp] theorem loadWork_wavein (w : Work) : (loadWork w s).wavein = s.wavein := rfl
@[simp] theorem loadWork_bitout (w : Work) : (loadWork w s).bitout = s.bitout := rfl
@[simp] theorem loadWork_waveout (w : Work) : (loadWork w s).waveout = s.waveout := rfl
@[simp] theorem loadWork_rptPalStart (w : Work) : (loadWork w s).rptPalStart = s.rptPalStart := rfl
@[simp] theorem loadWork_rptPalLen (w : Work) : (loadWork w s).rptPalLen = s.rptPalLen := rfl
@[simp] theorem loadWork_rptZrun (w : Work) : (loadWork w s).rptZrun = s.rptZrun := rfl
@[simp] theorem loadWork_status (w : Work) : (loadWork w s).status = s.status := rfl
@[simp] theorem loadWork_work (w : Work) : (loadWork w s).work = some w := rfl
@[simp] theorem loadWork_schedule (w : Work) : (loadWork w s).schedule = s.schedule := rfl
@[simp] theorem loadWork_seen (w : Work) : (loadWork w s).seen = s.seen := rfl

@[simp] theorem endCommand_config (c : BitVec 4) : (endCommand c s).config = s.config := rfl
@[simp] theorem endCommand_frame (c : BitVec 4) : (endCommand c s).frame = none := rfl
@[simp] theorem endCommand_bitin (c : BitVec 4) : (endCommand c s).bitin = s.bitin := rfl
@[simp] theorem endCommand_sampin (c : BitVec 4) : (endCommand c s).sampin = s.sampin := rfl
@[simp] theorem endCommand_wavein (c : BitVec 4) : (endCommand c s).wavein = s.wavein := rfl
@[simp] theorem endCommand_bitout (c : BitVec 4) : (endCommand c s).bitout = s.bitout := rfl
@[simp] theorem endCommand_waveout (c : BitVec 4) : (endCommand c s).waveout = s.waveout := rfl
@[simp] theorem endCommand_rptPalStart (c : BitVec 4) : (endCommand c s).rptPalStart = s.rptPalStart := rfl
@[simp] theorem endCommand_rptPalLen (c : BitVec 4) : (endCommand c s).rptPalLen = s.rptPalLen := rfl
@[simp] theorem endCommand_rptZrun (c : BitVec 4) : (endCommand c s).rptZrun = s.rptZrun := rfl
@[simp] theorem endCommand_status (c : BitVec 4) : (endCommand c s).status = c := rfl
@[simp] theorem endCommand_work (c : BitVec 4) : (endCommand c s).work = none := rfl
@[simp] theorem endCommand_schedule (c : BitVec 4) : (endCommand c s).schedule = s.schedule := rfl
@[simp] theorem endCommand_seen (c : BitVec 4) : (endCommand c s).seen = s.seen := rfl

@[simp] theorem complete_config : (complete s).config = s.config := rfl
@[simp] theorem complete_frame : (complete s).frame = none := rfl
@[simp] theorem complete_bitin : (complete s).bitin = s.bitin := rfl
@[simp] theorem complete_sampin : (complete s).sampin = s.sampin := rfl
@[simp] theorem complete_wavein : (complete s).wavein = s.wavein := rfl
@[simp] theorem complete_bitout : (complete s).bitout = s.bitout := rfl
@[simp] theorem complete_waveout : (complete s).waveout = s.waveout := rfl
@[simp] theorem complete_rptPalStart : (complete s).rptPalStart = s.rptPalStart := rfl
@[simp] theorem complete_rptPalLen : (complete s).rptPalLen = s.rptPalLen := rfl
@[simp] theorem complete_rptZrun : (complete s).rptZrun = s.rptZrun := rfl
@[simp] theorem complete_status : (complete s).status = statusOk := rfl
@[simp] theorem complete_work : (complete s).work = none := rfl
@[simp] theorem complete_schedule : (complete s).schedule = s.schedule := rfl
@[simp] theorem complete_seen : (complete s).seen = s.seen := rfl

@[simp] theorem raise_config (f : Failure) : (raise f s).config = s.config := rfl
@[simp] theorem raise_frame (f : Failure) : (raise f s).frame = none := rfl
@[simp] theorem raise_bitin (f : Failure) : (raise f s).bitin = s.bitin := rfl
@[simp] theorem raise_sampin (f : Failure) : (raise f s).sampin = s.sampin := rfl
@[simp] theorem raise_wavein (f : Failure) : (raise f s).wavein = s.wavein := rfl
@[simp] theorem raise_bitout (f : Failure) : (raise f s).bitout = [] := rfl
@[simp] theorem raise_waveout (f : Failure) : (raise f s).waveout = [] := rfl
@[simp] theorem raise_rptPalStart (f : Failure) : (raise f s).rptPalStart = 0 := rfl
@[simp] theorem raise_rptPalLen (f : Failure) : (raise f s).rptPalLen = 0 := rfl
@[simp] theorem raise_rptZrun (f : Failure) : (raise f s).rptZrun = 0 := rfl
@[simp] theorem raise_status (f : Failure) : (raise f s).status = failureCode f := rfl
@[simp] theorem raise_work (f : Failure) : (raise f s).work = none := rfl
@[simp] theorem raise_schedule (f : Failure) : (raise f s).schedule = s.schedule := rfl
@[simp] theorem raise_seen (f : Failure) : (raise f s).seen = s.seen := rfl

@[simp] theorem recordRead_config (v : HostValue) : (recordRead v s).config = s.config := rfl
@[simp] theorem recordRead_frame (v : HostValue) : (recordRead v s).frame = s.frame := rfl
@[simp] theorem recordRead_bitin (v : HostValue) : (recordRead v s).bitin = s.bitin := rfl
@[simp] theorem recordRead_sampin (v : HostValue) : (recordRead v s).sampin = s.sampin := rfl
@[simp] theorem recordRead_wavein (v : HostValue) : (recordRead v s).wavein = s.wavein := rfl
@[simp] theorem recordRead_bitout (v : HostValue) : (recordRead v s).bitout = s.bitout := rfl
@[simp] theorem recordRead_waveout (v : HostValue) : (recordRead v s).waveout = s.waveout := rfl
@[simp] theorem recordRead_rptPalStart (v : HostValue) : (recordRead v s).rptPalStart = s.rptPalStart := rfl
@[simp] theorem recordRead_rptPalLen (v : HostValue) : (recordRead v s).rptPalLen = s.rptPalLen := rfl
@[simp] theorem recordRead_rptZrun (v : HostValue) : (recordRead v s).rptZrun = s.rptZrun := rfl
@[simp] theorem recordRead_status (v : HostValue) : (recordRead v s).status = s.status := rfl
@[simp] theorem recordRead_work (v : HostValue) : (recordRead v s).work = s.work := rfl
@[simp] theorem recordRead_schedule (v : HostValue) : (recordRead v s).schedule = s.schedule := rfl
@[simp] theorem recordRead_seen (v : HostValue) : (recordRead v s).seen = s.seen ++ [v] := rfl

@[simp] theorem presentFrame_config (f : Frame) : (presentFrame f s).config = s.config := rfl
@[simp] theorem presentFrame_frame (f : Frame) : (presentFrame f s).frame = some f := rfl
@[simp] theorem presentFrame_bitin (f : Frame) : (presentFrame f s).bitin = s.bitin := rfl
@[simp] theorem presentFrame_sampin (f : Frame) : (presentFrame f s).sampin = s.sampin := rfl
@[simp] theorem presentFrame_wavein (f : Frame) : (presentFrame f s).wavein = s.wavein := rfl
@[simp] theorem presentFrame_bitout (f : Frame) : (presentFrame f s).bitout = s.bitout := rfl
@[simp] theorem presentFrame_waveout (f : Frame) : (presentFrame f s).waveout = s.waveout := rfl
@[simp] theorem presentFrame_rptPalStart (f : Frame) : (presentFrame f s).rptPalStart = s.rptPalStart := rfl
@[simp] theorem presentFrame_rptPalLen (f : Frame) : (presentFrame f s).rptPalLen = s.rptPalLen := rfl
@[simp] theorem presentFrame_rptZrun (f : Frame) : (presentFrame f s).rptZrun = s.rptZrun := rfl
@[simp] theorem presentFrame_status (f : Frame) : (presentFrame f s).status = s.status := rfl
@[simp] theorem presentFrame_work (f : Frame) : (presentFrame f s).work = s.work := rfl
@[simp] theorem presentFrame_schedule (f : Frame) : (presentFrame f s).schedule = s.schedule := rfl
@[simp] theorem presentFrame_seen (f : Frame) : (presentFrame f s).seen = s.seen := rfl

@[simp] theorem resetEvent_config : (resetEvent s).config = s.config := rfl
@[simp] theorem resetEvent_frame : (resetEvent s).frame = State.reset.frame := rfl
@[simp] theorem resetEvent_bitin : (resetEvent s).bitin = State.reset.bitin := rfl
@[simp] theorem resetEvent_sampin : (resetEvent s).sampin = State.reset.sampin := rfl
@[simp] theorem resetEvent_wavein : (resetEvent s).wavein = State.reset.wavein := rfl
@[simp] theorem resetEvent_bitout : (resetEvent s).bitout = State.reset.bitout := rfl
@[simp] theorem resetEvent_waveout : (resetEvent s).waveout = State.reset.waveout := rfl
@[simp] theorem resetEvent_rptPalStart : (resetEvent s).rptPalStart = State.reset.rptPalStart := rfl
@[simp] theorem resetEvent_rptPalLen : (resetEvent s).rptPalLen = State.reset.rptPalLen := rfl
@[simp] theorem resetEvent_rptZrun : (resetEvent s).rptZrun = State.reset.rptZrun := rfl
@[simp] theorem resetEvent_status : (resetEvent s).status = State.reset.status := rfl
@[simp] theorem resetEvent_work : (resetEvent s).work = State.reset.work := rfl
@[simp] theorem resetEvent_schedule : (resetEvent s).schedule = s.schedule := rfl
@[simp] theorem resetEvent_seen : (resetEvent s).seen = s.seen := rfl

end

end Sys2Proof.Machine
end

