-- ==== Sys2Proof/Laws/Ops.lean ====
section
/-!
SUPPORT. One lemma for each shared operation that says what it can do, cited by later proofs instead of unfolding it.
-/

namespace Sys2Proof.Machine

/-! ## Capacity -/

@[simp] theorem fitsCapacity_none (n : Nat) : fitsCapacity { nmax := none } n = true := rfl

@[simp] theorem fitsCapacity_zero (c : Config) : fitsCapacity c 0 = true := by
  cases c with | mk nmax => cases nmax <;> simp [fitsCapacity]

theorem fitsCapacity_mono {c : Config} {m n : Nat} (h : m ≤ n) (hn : fitsCapacity c n = true) :
    fitsCapacity c m = true := by
  cases c with | mk nmax =>
  cases nmax with
  | none => rfl
  | some k => simp [fitsCapacity] at *; omega

/-- Appending element by element ends with the whole, or fails as soon as the whole does not fit. -/
theorem appendEach_eq {α : Type} (c : Config) (vs buf : List α) (h : fitsCapacity c buf.length = true) :
    appendEach c buf vs = if fitsCapacity c (buf.length + vs.length) then some (buf ++ vs) else none := by
  induction vs generalizing buf with
  | nil => simp [appendEach, h]
  | cons v vs ih =>
    by_cases hv : fitsCapacity c (buf.length + 1) = true
    · have := ih (buf ++ [v]) (by simpa using hv)
      have hl : (buf ++ [v]).length + vs.length = buf.length + (v :: vs).length := by simp; omega
      simp only [appendEach, hv, if_true, this, hl]
      simp
    · have hno : ¬ fitsCapacity c (buf.length + (v :: vs).length) = true := fun hw =>
        hv (fitsCapacity_mono (by simp) hw)
      rw [if_neg hno]
      simp [appendEach, hv]

theorem appendEach_nil_eq {α : Type} (c : Config) (vs : List α) :
    appendEach c [] vs = if fitsCapacity c vs.length then some vs else none := by
  simpa using appendEach_eq c vs [] (by simp)

/-! ## Commits -/

/-- What `commitBits` does once the results are cleared. -/
theorem commitBits_eq (out : List Bit) (s : State) (h : s.bitout = []) :
    commitBits out s =
      if fitsCapacity s.config out.length then complete { s with bitout := out } else raise .capacityExceeded s := by
  unfold commitBits
  rw [h, appendEach_nil_eq]
  by_cases hf : fitsCapacity s.config out.length = true <;> simp [hf]

/-- What `commitWave` does once the results are cleared. -/
theorem commitWave_eq (out : Wave) (s : State) (h : s.waveout = []) :
    commitWave out s =
      if fitsCapacity s.config out.length then complete { s with waveout := out } else raise .capacityExceeded s := by
  unfold commitWave
  rw [h, appendEach_nil_eq]
  by_cases hf : fitsCapacity s.config out.length = true <;> simp [hf]

theorem raise_clearResults (f : Failure) (s : State) : raise f (clearResults s) = raise f s := rfl

theorem raise_loadWork (f : Failure) (w : Work) (s : State) : raise f (loadWork w s) = raise f s := rfl

theorem failingCommand_eq (f : Failure) (s : State) : failingCommand f s = raise f s := rfl

/-! ## The ENC frame -/

/-- Everything an ENC command can do: append its whole waveform and complete, or fail for capacity. -/
theorem encFrame_eq (body : List Bit → Emit) (s : State) :
    encFrame body s =
      if fitsCapacity s.config s.bitin.length ∧ fitsCapacity s.config (body s.bitin initialEncRegs).2.length then
        complete { clearResults s with waveout := (body s.bitin initialEncRegs).2 }
      else raise .capacityExceeded s := by
  unfold encFrame
  rw [commitWave_eq _ _ rfl, raise_clearResults]
  by_cases h1 : fitsCapacity s.config s.bitin.length = true
  · rw [if_pos h1]
    by_cases h2 : fitsCapacity s.config (body s.bitin initialEncRegs).2.length = true
    · rw [loadWork_config, clearResults_config, if_pos h2, if_pos ⟨h1, h2⟩]
      rfl
    · rw [loadWork_config, clearResults_config, if_neg h2, if_neg fun h => h2 h.2]
      rfl
  · rw [if_neg h1, if_neg fun h => h1 h.1]

@[simp] theorem seg_apply (l d : R) (r : EncRegs) :
    seg l d r = ({ r with t := r.t + d }, [⟨r.t, l⟩, ⟨r.t + d, l⟩]) := rfl

@[simp] theorem advance_apply (k : Nat) (r : EncRegs) : advance k r = ({ r with i := r.i + k }, []) := rfl

@[simp] theorem emitThen_apply (a b : Emit) (r : EncRegs) :
    emitThen a b r = ((b (a r).1).1, (a r).2 ++ (b (a r).1).2) := rfl

@[simp] theorem emitAll_nil_apply (r : EncRegs) : emitAll [] r = (r, []) := rfl

@[simp] theorem emitAll_cons (a : Emit) (as : List Emit) : emitAll (a :: as) = emitThen a (emitAll as) := rfl

@[simp] theorem scanBits_nil (code : Bit → Emit) : scanBits code [] = emitAll [] := rfl

@[simp] theorem scanBits_cons (code : Bit → Emit) (b : Bit) (bs : List Bit) :
    scanBits code (b :: bs) = emitThen (code b) (scanBits code bs) := rfl

/-! ## The substitution scan -/

/-- The skipped bits of an emitted window are passed one by one. -/
theorem substitutionScan_skip (k : Nat) (window : Emit) (code : Bit → Emit) (bits : List Bit) (n : Nat) :
    substitutionScan k window code bits n = substitutionScan k window code (bits.drop n) 0 := by
  induction bits generalizing n with
  | nil => cases n <;> rfl
  | cons b bs ih =>
    cases n with
    | zero => rfl
    | succ n => simpa [substitutionScan] using ih n

/-- At a window: the window, then the scan past it. -/
theorem substitutionScan_window {k : Nat} {window : Emit} {code : Bit → Emit} {bits : List Bit} (hk : 0 < k)
    (h : zeroWindow k bits = true) :
    substitutionScan k window code bits 0 =
      emitThen window (substitutionScan k window code (bits.drop k) 0) := by
  cases bits with
  | nil => simp [zeroWindow] at h; omega
  | cons b bs =>
    obtain ⟨m, rfl⟩ : ∃ m, k = m + 1 := ⟨k - 1, by omega⟩
    simp only [substitutionScan, h, if_true, Nat.add_sub_cancel, List.drop_succ_cons]
    rw [substitutionScan_skip]

/-- Outside a window: the one bit, then the scan past it. -/
theorem substitutionScan_bit {k : Nat} {window : Emit} {code : Bit → Emit} {b : Bit} {bs : List Bit}
    (h : zeroWindow k (b :: bs) = false) :
    substitutionScan k window code (b :: bs) 0 =
      emitThen (code b) (substitutionScan k window code bs 0) := by
  simp [substitutionScan, h]

@[simp] theorem substitutionScan_nil (k : Nat) (window : Emit) (code : Bit → Emit) (n : Nat) :
    substitutionScan k window code [] n = emitAll [] := by cases n <;> rfl

/-- A zero window is `k` zeros followed by the rest. -/
theorem zeroWindow_iff (k : Nat) (bits : List Bit) :
    zeroWindow k bits = true ↔ bits = List.replicate k false ++ bits.drop k := by
  constructor
  · intro h
    simp only [zeroWindow, Bool.and_eq_true, decide_eq_true_eq, List.all_eq_true, beq_iff_eq] at h
    have ht : bits.take k = List.replicate k false := by
      refine List.eq_replicate_iff.2 ⟨by simp [h.1], h.2⟩
    rw [← ht, List.take_append_drop]
  · intro h
    rw [h]
    simp [zeroWindow]

/-! ## The DEC frame -/

@[simp] theorem decodeIntervals_length (interval : DecRegs → DecRegs × Bit) (n : Nat) (r : DecRegs) :
    (decodeIntervals interval n r).length = n := by
  induction n generalizing r with
  | zero => rfl
  | succ n ih => simp [decodeIntervals, ih]

/-- The bits a DEC command produces on the non-empty waveform `p :: ps`. -/
def decodedBits (seed : (R → R) → Option Sgn) (interval : (R → R) → DecRegs → DecRegs × Bit) (p : Point) (ps : Wave) :
    List Bit :=
  decodeIntervals (interval (levelAt p ps)) (intervalCount p ps) (initialDecRegs seed p ps)

/-- Everything a DEC command can do on a non-empty waveform: its bits, or a failure for capacity. -/
theorem decFrame_cons_eq (seed : (R → R) → Option Sgn) (interval : (R → R) → DecRegs → DecRegs × Bit) (s : State)
    (p : Point) (ps : Wave) (h : s.wavein = p :: ps) :
    decFrame seed interval s =
      if fitsCapacity s.config s.wavein.length ∧ fitsCapacity s.config (intervalCount p ps) then
        complete { clearResults s with bitout := decodedBits seed interval p ps }
      else raise .capacityExceeded s := by
  unfold decFrame
  by_cases h1 : fitsCapacity s.config s.wavein.length = true
  · rw [if_pos h1]
    simp only [h]
    rw [commitBits_eq _ _ rfl, decodeIntervals_length, loadWork_config, clearResults_config]
    rw [h] at h1
    by_cases h2 : fitsCapacity s.config (intervalCount p ps) = true
    · rw [if_pos (show fitsCapacity s.config (initialDecRegs seed p ps).n = true from h2),
        if_pos (And.intro h1 h2)]
      rfl
    · rw [if_neg (show ¬ fitsCapacity s.config (initialDecRegs seed p ps).n = true from h2),
        if_neg fun h : _ ∧ _ => h2 h.2]
      rfl
  · rw [if_neg h1, if_neg fun h => h1 h.1, raise_clearResults]

/-- A DEC command on the empty waveform fails with `UnsupportedDecode`. -/
theorem decFrame_nil_eq (seed : (R → R) → Option Sgn) (interval : (R → R) → DecRegs → DecRegs × Bit) (s : State)
    (h : s.wavein = []) : decFrame seed interval s = raise .unsupportedDecode s := by
  unfold decFrame
  simp [h, raise_clearResults]

/-- The time of the last point, as `getLast?` gives it. -/
theorem finalTime_eq (p : Point) (ps : Wave) (q : Point) (h : (p :: ps).getLast? = some q) :
    finalTime p ps = q.time := by
  induction ps generalizing p with
  | nil => simp at h; simp [finalTime, h]
  | cons p' ps ih => exact ih p' (by simpa using h)

/-! ## Bit vectors and the front ends -/

@[simp] theorem bitsMsbFirst_length (w q : Nat) : (bitsMsbFirst w q).length = w := by simp [bitsMsbFirst]

/-- Position `j` of an emitted code holds bit `w - 1 - j` of its value. -/
theorem bitsMsbFirst_getElem? (w q j : Nat) (h : j < w) :
    (bitsMsbFirst w q)[j]? = some (q.testBit (w - 1 - j)) := by
  simp [bitsMsbFirst, h]

@[simp] theorem pcmBits_length (a : Args) (xs : List R) : (pcmBits a xs).length = xs.length * a.bps := by
  simp [pcmBits]

@[simp] theorem dmBits_length (step : R) (r : DmRegs) (xs : List R) : (dmBits step r xs).length = xs.length := by
  induction xs generalizing r with
  | nil => rfl
  | cons x xs ih => simp [dmBits, ih]

/-! ## The three-valued registers -/

@[simp] theorem negSgn_negSgn (x : Sgn) : negSgn (negSgn x) = x := by cases x <;> rfl

@[simp] theorem sgnLevel_negSgn (x : Sgn) : sgnLevel (negSgn x) = -sgnLevel x := by
  cases x <;> simp [negSgn, sgnLevel]

theorem sgnLevel_ternary (x : Sgn) : sgnLevel x = -1 ∨ sgnLevel x = 0 ∨ sgnLevel x = 1 := by
  cases x <;> simp [sgnLevel]

end Sys2Proof.Machine
end

