-- ==== Sys2Proof/Laws/Exec.lean ====
section
/-!
SUPPORT. One inversion lemma for `exec`: everything a command can answer. Later proofs about all commands cite it
instead of unfolding the meanings.
-/

namespace Sys2Proof.Machine

/-- The bodies of the seven ENC commands. -/
def encBodies : List (List Bit → Emit) :=
  [scanBits nrzlBit, scanBits nrziBit, scanBits manBit, scanBits dmanBit, scanBits amiBit, b8zsScan, hdb3Scan]

/-- What a command can end in: a failure the block raises, or one kind of result that fits its buffer. -/
inductive Ends (s t : State) : Prop where
  | failed (f : Failure) (h₁ : f ≠ .invalidBitString) (h₂ : f ≠ .invalidAnalogSample) (h : t = raise f s)
  | bits (out : List Bit) (fits : fitsCapacity s.config out.length = true)
      (h : t = complete { clearResults s with bitout := out })
  | wave (body : List Bit → Emit) (mem : body ∈ encBodies)
      (fits : fitsCapacity s.config (body s.bitin initialEncRegs).2.length = true)
      (h : t = complete { clearResults s with waveout := (body s.bitin initialEncRegs).2 })
  | report (a len z : Nat)
      (h : t = complete { clearResults s with rptPalStart := a, rptPalLen := len, rptZrun := z })

theorem encFrame_ends (body : List Bit → Emit) (mem : body ∈ encBodies) (s : State) :
    Ends s (encFrame body s) := by
  rw [encFrame_eq]
  split
  case isTrue h => exact .wave body mem h.2 rfl
  case isFalse => exact .failed .capacityExceeded (by decide) (by decide) rfl

theorem decFrame_ends (seed : (R → R) → Option Sgn) (interval : (R → R) → DecRegs → DecRegs × Bit) (s : State) :
    Ends s (decFrame seed interval s) := by
  cases h : s.wavein with
  | nil =>
    rw [decFrame_nil_eq _ _ _ h]
    exact .failed .unsupportedDecode (by decide) (by decide) rfl
  | cons p ps =>
    rw [decFrame_cons_eq _ _ _ _ _ h]
    split
    case isTrue hf => exact .bits _ (by simpa [decodedBits] using hf.2) rfl
    case isFalse => exact .failed .capacityExceeded (by decide) (by decide) rfl

theorem commitBits_ends (out : List Bit) (w : Work) (s : State) :
    Ends s (commitBits out (loadWork w (clearResults s))) := by
  rw [commitBits_eq _ _ rfl]
  split
  case isTrue h => exact .bits out h rfl
  case isFalse => exact .failed .capacityExceeded (by decide) (by decide) rfl

theorem runPcm_ends (a : Args) (s : State) : Ends s (runPcm a s) := by
  unfold runPcm
  split
  · split
    · exact commitBits_ends _ _ s
    · exact .failed .capacityExceeded (by decide) (by decide) rfl
  · exact .failed .invalidParameter (by decide) (by decide) rfl

theorem runDm_ends (a : Args) (s : State) : Ends s (runDm a s) := by
  unfold runDm
  split
  · split
    · split
      · exact .failed .emptyInput (by decide) (by decide) rfl
      · exact commitBits_ends _ _ s
    · exact .failed .capacityExceeded (by decide) (by decide) rfl
  · exact .failed .invalidParameter (by decide) (by decide) rfl

theorem runAnalyze_ends (s : State) : Ends s (runAnalyze s) := by
  unfold runAnalyze
  split
  · exact .report _ _ _ rfl
  · exact .failed .capacityExceeded (by decide) (by decide) rfl

theorem failingCommand_ends (f : Failure) (h₁ : f ≠ .invalidBitString) (h₂ : f ≠ .invalidAnalogSample) (s : State) :
    Ends s (failingCommand f s) := .failed f h₁ h₂ rfl

/-- Everything a command can do when it answers a next state. -/
theorem exec_ends {i : Instr} {s t : State} (h : exec i s = .next t) : Ends s t := by
  cases i
  case pcm =>
    simp only [exec, execPcm] at h
    split at h
    · exact Host.Outcome.next.inj h ▸ runPcm_ends _ s
    · cases h
  case dm =>
    simp only [exec, execDm] at h
    split at h
    · exact Host.Outcome.next.inj h ▸ runDm_ends _ s
    · cases h
  case analyze => exact Host.Outcome.next.inj h ▸ runAnalyze_ends s
  case encNrzl => exact Host.Outcome.next.inj h ▸ encFrame_ends _ (by simp [encBodies]) s
  case encNrzi => exact Host.Outcome.next.inj h ▸ encFrame_ends _ (by simp [encBodies]) s
  case encMan => exact Host.Outcome.next.inj h ▸ encFrame_ends _ (by simp [encBodies]) s
  case encDman => exact Host.Outcome.next.inj h ▸ encFrame_ends _ (by simp [encBodies]) s
  case encAmi => exact Host.Outcome.next.inj h ▸ encFrame_ends _ (by simp [encBodies]) s
  case encAmiB8zs => exact Host.Outcome.next.inj h ▸ encFrame_ends _ (by simp [encBodies]) s
  case encAmiHdb3 => exact Host.Outcome.next.inj h ▸ encFrame_ends _ (by simp [encBodies]) s
  case decNrzl => exact Host.Outcome.next.inj h ▸ decFrame_ends _ _ s
  case decNrzi => exact Host.Outcome.next.inj h ▸ decFrame_ends _ _ s
  case decMan => exact Host.Outcome.next.inj h ▸ decFrame_ends _ _ s
  case decDman => exact Host.Outcome.next.inj h ▸ decFrame_ends _ _ s
  case decAmi => exact Host.Outcome.next.inj h ▸ decFrame_ends _ _ s
  all_goals exact Host.Outcome.next.inj h ▸ failingCommand_ends _ (by decide) (by decide) s

end Sys2Proof.Machine
end

