-- ==== Sys2Proof/Laws/PerInstr.lean ====
section
/-!
SUPPORT. Facts made one command at a time (LAWS.json).
-/

namespace Sys2Proof.Laws.EncodesDefinedWord

/-- The word of a command is not reserved (30_encoding.md R77): all its fields are defined. -/
def Statement (i : Instr) : Prop := reservedWord (encode i) = false

theorem pcm : Statement .pcm := rfl
theorem dm : Statement .dm := rfl
theorem encNrzl : Statement .encNrzl := rfl
theorem encNrzi : Statement .encNrzi := rfl
theorem encMan : Statement .encMan := rfl
theorem encDman : Statement .encDman := rfl
theorem encAmi : Statement .encAmi := rfl
theorem encAmiB8zs : Statement .encAmiB8zs := rfl
theorem encAmiHdb3 : Statement .encAmiHdb3 := rfl
theorem decNrzl : Statement .decNrzl := rfl
theorem decNrzi : Statement .decNrzi := rfl
theorem decMan : Statement .decMan := rfl
theorem decDman : Statement .decDman := rfl
theorem decAmi : Statement .decAmi := rfl
theorem analyze : Statement .analyze := rfl
theorem encNrzlB8zs : Statement .encNrzlB8zs := rfl
theorem encNrziB8zs : Statement .encNrziB8zs := rfl
theorem encManB8zs : Statement .encManB8zs := rfl
theorem encDmanB8zs : Statement .encDmanB8zs := rfl
theorem encNrzlHdb3 : Statement .encNrzlHdb3 := rfl
theorem encNrziHdb3 : Statement .encNrziHdb3 := rfl
theorem encManHdb3 : Statement .encManHdb3 := rfl
theorem encDmanHdb3 : Statement .encDmanHdb3 := rfl
theorem decNrzlB8zs : Statement .decNrzlB8zs := rfl
theorem decNrziB8zs : Statement .decNrziB8zs := rfl
theorem decManB8zs : Statement .decManB8zs := rfl
theorem decDmanB8zs : Statement .decDmanB8zs := rfl
theorem decAmiB8zs : Statement .decAmiB8zs := rfl
theorem decNrzlHdb3 : Statement .decNrzlHdb3 := rfl
theorem decNrziHdb3 : Statement .decNrziHdb3 := rfl
theorem decManHdb3 : Statement .decManHdb3 := rfl
theorem decDmanHdb3 : Statement .decDmanHdb3 := rfl
theorem decAmiHdb3 : Statement .decAmiHdb3 := rfl

/-- Every command's word is defined. -/
theorem all (i : Instr) : Statement i := by
  cases i
  case pcm => exact Sys2Proof.Laws.EncodesDefinedWord.pcm
  case dm => exact Sys2Proof.Laws.EncodesDefinedWord.dm
  case encNrzl => exact Sys2Proof.Laws.EncodesDefinedWord.encNrzl
  case encNrzi => exact Sys2Proof.Laws.EncodesDefinedWord.encNrzi
  case encMan => exact Sys2Proof.Laws.EncodesDefinedWord.encMan
  case encDman => exact Sys2Proof.Laws.EncodesDefinedWord.encDman
  case encAmi => exact Sys2Proof.Laws.EncodesDefinedWord.encAmi
  case encAmiB8zs => exact Sys2Proof.Laws.EncodesDefinedWord.encAmiB8zs
  case encAmiHdb3 => exact Sys2Proof.Laws.EncodesDefinedWord.encAmiHdb3
  case decNrzl => exact Sys2Proof.Laws.EncodesDefinedWord.decNrzl
  case decNrzi => exact Sys2Proof.Laws.EncodesDefinedWord.decNrzi
  case decMan => exact Sys2Proof.Laws.EncodesDefinedWord.decMan
  case decDman => exact Sys2Proof.Laws.EncodesDefinedWord.decDman
  case decAmi => exact Sys2Proof.Laws.EncodesDefinedWord.decAmi
  case analyze => exact Sys2Proof.Laws.EncodesDefinedWord.analyze
  case encNrzlB8zs => exact Sys2Proof.Laws.EncodesDefinedWord.encNrzlB8zs
  case encNrziB8zs => exact Sys2Proof.Laws.EncodesDefinedWord.encNrziB8zs
  case encManB8zs => exact Sys2Proof.Laws.EncodesDefinedWord.encManB8zs
  case encDmanB8zs => exact Sys2Proof.Laws.EncodesDefinedWord.encDmanB8zs
  case encNrzlHdb3 => exact Sys2Proof.Laws.EncodesDefinedWord.encNrzlHdb3
  case encNrziHdb3 => exact Sys2Proof.Laws.EncodesDefinedWord.encNrziHdb3
  case encManHdb3 => exact Sys2Proof.Laws.EncodesDefinedWord.encManHdb3
  case encDmanHdb3 => exact Sys2Proof.Laws.EncodesDefinedWord.encDmanHdb3
  case decNrzlB8zs => exact Sys2Proof.Laws.EncodesDefinedWord.decNrzlB8zs
  case decNrziB8zs => exact Sys2Proof.Laws.EncodesDefinedWord.decNrziB8zs
  case decManB8zs => exact Sys2Proof.Laws.EncodesDefinedWord.decManB8zs
  case decDmanB8zs => exact Sys2Proof.Laws.EncodesDefinedWord.decDmanB8zs
  case decAmiB8zs => exact Sys2Proof.Laws.EncodesDefinedWord.decAmiB8zs
  case decNrzlHdb3 => exact Sys2Proof.Laws.EncodesDefinedWord.decNrzlHdb3
  case decNrziHdb3 => exact Sys2Proof.Laws.EncodesDefinedWord.decNrziHdb3
  case decManHdb3 => exact Sys2Proof.Laws.EncodesDefinedWord.decManHdb3
  case decDmanHdb3 => exact Sys2Proof.Laws.EncodesDefinedWord.decDmanHdb3
  case decAmiHdb3 => exact Sys2Proof.Laws.EncodesDefinedWord.decAmiHdb3

end Sys2Proof.Laws.EncodesDefinedWord
end

