-- ==== Sys2Proof/Tests/Slice0.lean ====
section
/-!
SUPPORT. Tests. Expected values come from the tables of spec/opcode_table.json, the vectors of spec/95_test_vectors.md
(section numbers in the comments) and the rules cited, never from the model. The last part shows, for each statement
with hypotheses, a concrete state and operands that meet them.
-/

set_option Elab.async false

namespace Sys2Proof.Tests

open Sys2Proof.Machine Sys2Proof.Spec

/-! ## Helpers -/

def bitsOf (t : String) : List Bit := t.toList.map fun ch => ch == '1'

/-- Levels of a test vector: `+`, `-`, `0`. -/
def levelsOf (t : String) : List R := t.toList.map fun ch => if ch = '+' then 1 else if ch = '-' then -1 else 0

def stateAfter (o : Host.Outcome State Fault Refusal) : Option State :=
  match o with
  | .next s => some s
  | .fault _ => none
  | .refused _ => none

def onBits (t : String) : State := { State.reset with bitin := bitsOf t }

def onWave (w : Wave) : State := { State.reset with wavein := w }

def onSamples (a : Args) (xs : List R) : State :=
  { State.reset with sampin := xs, frame := some { cw := 0, args := a } }

/-- The segment levels of an engine-made waveform: the level of every other point. -/
def levelList (w : Wave) : List R :=
  (List.range (w.length / 2)).map fun k => ((w[2 * k]?).map Point.level).getD 0

def encodesTo (i : Instr) (input levels : String) : Bool :=
  match stateAfter (exec i (onBits input)) with
  | some t => t.status == 0 && levelList t.waveout == levelsOf levels
  | none => false

/-- `DEC` on the waveform `ENC` makes of `input` (95_test_vectors.md section 5.1). -/
def decodesOwn (i j : Instr) (input output : String) : Bool :=
  match stateAfter (exec i (onBits input)) with
  | some t =>
    match stateAfter (exec j { t with wavein := t.waveout }) with
    | some u => u.status == 0 && u.bitout == bitsOf output
    | none => false
  | none => false

def bitsAfter (i : Instr) (s : State) : Option (List Bit × BitVec 4) :=
  (stateAfter (exec i s)).map fun t => (t.bitout, t.status)

def reportAfter (t : String) : Option (Nat × Nat × Nat) :=
  (stateAfter (exec .analyze (onBits t))).map fun u => (u.rptPalStart, u.rptPalLen, u.rptZrun)

/-! ## Decoding: each word of spec/opcode_table.json, its bits written out -/

theorem test_decode_front_ends :
    decode 0b0000000000000100#16 = .ok .pcm ∧
    decode 0b0000000000000101#16 = .ok .dm := by
  exact ⟨rfl, rfl⟩

theorem test_decode_encoders :
    decode 0b0000000000000001#16 = .ok .encNrzl ∧
    decode 0b0000000000010001#16 = .ok .encNrzi ∧
    decode 0b0000000000100001#16 = .ok .encMan ∧
    decode 0b0000000000110001#16 = .ok .encDman ∧
    decode 0b0000000001000001#16 = .ok .encAmi := by
  exact ⟨rfl, rfl, rfl, rfl, rfl⟩

theorem test_decode_scrambled_encoders :
    decode 0b0000000011000001#16 = .ok .encAmiB8zs ∧
    decode 0b0000000101000001#16 = .ok .encAmiHdb3 := by
  exact ⟨rfl, rfl⟩

theorem test_decode_decoders :
    decode 0b0000000000000010#16 = .ok .decNrzl ∧
    decode 0b0000000000010010#16 = .ok .decNrzi ∧
    decode 0b0000000000100010#16 = .ok .decMan ∧
    decode 0b0000000000110010#16 = .ok .decDman ∧
    decode 0b0000000001000010#16 = .ok .decAmi := by
  exact ⟨rfl, rfl, rfl, rfl, rfl⟩

theorem test_decode_analyzer :
    decode 0b0000000000000011#16 = .ok .analyze := by
  exact rfl

theorem test_decode_enc_failures_b8zs :
    decode 0b0000000010000001#16 = .ok .encNrzlB8zs ∧
    decode 0b0000000010010001#16 = .ok .encNrziB8zs ∧
    decode 0b0000000010100001#16 = .ok .encManB8zs ∧
    decode 0b0000000010110001#16 = .ok .encDmanB8zs := by
  exact ⟨rfl, rfl, rfl, rfl⟩

theorem test_decode_enc_failures_hdb3 :
    decode 0b0000000100000001#16 = .ok .encNrzlHdb3 ∧
    decode 0b0000000100010001#16 = .ok .encNrziHdb3 ∧
    decode 0b0000000100100001#16 = .ok .encManHdb3 ∧
    decode 0b0000000100110001#16 = .ok .encDmanHdb3 := by
  exact ⟨rfl, rfl, rfl, rfl⟩

theorem test_decode_dec_failures_b8zs :
    decode 0b0000000010000010#16 = .ok .decNrzlB8zs ∧
    decode 0b0000000010010010#16 = .ok .decNrziB8zs ∧
    decode 0b0000000010100010#16 = .ok .decManB8zs ∧
    decode 0b0000000010110010#16 = .ok .decDmanB8zs ∧
    decode 0b0000000011000010#16 = .ok .decAmiB8zs := by
  exact ⟨rfl, rfl, rfl, rfl, rfl⟩

theorem test_decode_dec_failures_hdb3 :
    decode 0b0000000100000010#16 = .ok .decNrzlHdb3 ∧
    decode 0b0000000100010010#16 = .ok .decNrziHdb3 ∧
    decode 0b0000000100100010#16 = .ok .decManHdb3 ∧
    decode 0b0000000100110010#16 = .ok .decDmanHdb3 ∧
    decode 0b0000000101000010#16 = .ok .decAmiHdb3 := by
  exact ⟨rfl, rfl, rfl, rfl, rfl⟩

/-- 95_test_vectors.md section 7: reserved words, one for each test of 30_encoding.md R78 and their order. -/
theorem test_decode_reserved :
    decode 0x0000#16 = .error .reservedOp ∧ decode 0x0006#16 = .error .reservedOp ∧
    decode 0x0051#16 = .error .reservedSelector ∧ decode 0x01C1#16 = .error .reservedSelector ∧
    decode 0x0013#16 = .error .selectorNotZero ∧ decode 0x0084#16 = .error .selectorNotZero ∧
    decode 0x0045#16 = .error .selectorNotZero ∧ decode 0x0241#16 = .error .nonzeroZeroField ∧
    decode 0x01A1#16 = .error .reservedSelector ∧ decode 0xFFFF#16 = .error .nonzeroZeroField := by
  exact ⟨rfl, rfl, rfl, rfl, rfl, rfl, rfl, rfl, rfl, rfl⟩

theorem test_decodeTableWord_ami : decodeTableWord 16 0x41 = some .encAmi := by decide

theorem test_decodeTableWord_reserved : decodeTableWord 16 0x200 = none := by decide

/-- The word stored by `withFetchWord` is the next command: `ENC.AMI.B8ZS` on the empty reset input completes. -/
theorem test_withFetchWord_runs_first :
    step (State.reset.withFetchWord 16 0xC1) = exec .encAmiB8zs (State.reset.withFetchWord 16 0xC1) := rfl

/-- `DM` as the first command after reset takes `EmptyInput` (R93), a next state. -/
theorem test_withFetchWord_dm :
    (stateAfter (step (State.reset.withFetchWord 16 5))).map State.status = some 2 := by decide

/-! ## Well-formedness: an ill-formed frame for each check -/

def frameOf (cw : Word) (bps : Nat) (lo hi step : R) : Frame :=
  { cw := cw, args := { bps := bps, lo := lo, hi := hi, step := step } }

theorem test_wf_zero_field : (frameOf 0x0241 8 (-1) 1 1).wellFormed = false := by decide
theorem test_wf_op_zero : (frameOf 0x0000 8 (-1) 1 1).wellFormed = false := by decide
theorem test_wf_op_high : (frameOf 0x0006 8 (-1) 1 1).wellFormed = false := by decide
theorem test_wf_scheme : (frameOf 0x0051 8 (-1) 1 1).wellFormed = false := by decide
theorem test_wf_scramble : (frameOf 0x01C1 8 (-1) 1 1).wellFormed = false := by decide
theorem test_wf_selector : (frameOf 0x0013 8 (-1) 1 1).wellFormed = false := by decide
theorem test_wf_bps : (frameOf 0x0004 0 (-1) 1 1).wellFormed = false := by decide
theorem test_wf_lo_hi : (frameOf 0x0004 8 1 1 1).wellFormed = false := by decide
theorem test_wf_step : (frameOf 0x0005 8 (-1) 1 0).wellFormed = false := by decide

/-- Unused operands are not checked (10_state.md R22: `ENC.AMI` with `A_BPS = 0`). -/
theorem test_wf_unused_operands : (frameOf 0x0041 0 1 1 0).wellFormed = true := by decide

/-! ## Front ends (95_test_vectors.md section 2) -/

def pcmArgs (bps : Nat) (lo hi : R) : Args := { bps := bps, lo := lo, hi := hi, step := 1 }

def dmArgs (step : R) : Args := { bps := 8, lo := -1, hi := 1, step := step }

theorem test_pcm_codes :
    bitsAfter .pcm (onSamples (pcmArgs 3 0 1) [1 / 5, 1, 0, 0, 1 / 2]) = some (bitsOf "001111000000011", 0) := by
  decide +kernel

theorem test_pcm_floor_clamp_and_boundary :
    bitsAfter .pcm (onSamples (pcmArgs 8 (-1) 1) [0, -3, 1 / 255, 999 / 1000]) =
      some (bitsOf "01111111000000001000000011111110", 0) := by decide +kernel

theorem test_dm_tenths :
    bitsAfter .dm (onSamples (dmArgs (1 / 10)) [0, 3 / 10, 3 / 10, 3 / 10, 3 / 10, 0]) = some (bitsOf "11110", 0) := by
  decide +kernel

theorem test_dm_parameter_before_empty : bitsAfter .dm (onSamples (dmArgs 0) []) = some ([], 7) := by decide +kernel

/-! ## Encoders (sections 3 and 4) -/

theorem test_encNrzl : encodesTo .encNrzl "110100111" "++-+--+++" = true := by decide +kernel
theorem test_encNrzi : encodesTo .encNrzi "110100111" "-++---+-+" = true := by decide +kernel
theorem test_encMan : encodesTo .encMan "10110" "+--++-+--+" = true := by decide +kernel
theorem test_encDman : encodesTo .encDman "10110" "+--+-+-++-" = true := by decide +kernel
theorem test_encAmi : encodesTo .encAmi "110100111" "+-0+00-+-" = true := by decide +kernel

/-- Section 3.2, the point list of `ENC.MAN` on `10`. -/
theorem test_encMan_points :
    (stateAfter (exec .encMan (onBits "10"))).map State.waveout =
      some [⟨0, 1⟩, ⟨1 / 2, 1⟩, ⟨1 / 2, -1⟩, ⟨1, -1⟩, ⟨1, -1⟩, ⟨3 / 2, -1⟩, ⟨3 / 2, 1⟩, ⟨2, 1⟩] := by
  decide +kernel

/-- Section 4.1, `11000000001`: a window after a `-` mark. -/
theorem test_b8zs_mirrored : encodesTo .encAmiB8zs "11000000001" "+-000-+0+-+" = true := by decide +kernel

/-- Section 4.1, `000000001`: levels, and `(pol, lastNZ)` at the end. -/
theorem test_b8zs_window_before_any_mark :
    encodesTo .encAmiB8zs "000000001" "000+-0-++" = true ∧
    ((b8zsScan (bitsOf "000000001") initialEncRegs).1.pol = .plus ∧
      (b8zsScan (bitsOf "000000001") initialEncRegs).1.lastNZ = .plus) := by decide +kernel

/-- Section 4.2, `1011000000000101`: odd, then even, then a plain zero. -/
theorem test_hdb3_odd_even : encodesTo .encAmiHdb3 "1011000000000101" "+0-+000+-00-0+0-" = true := by decide +kernel

/-- Section 4.2, `001111000000011`: `(lastP, marks)` at the end, and the scan cursor at the input's end. -/
theorem test_hdb3_registers :
    ((hdb3Scan (bitsOf "001111000000011") initialEncRegs).1.lastP = .plus ∧
      (hdb3Scan (bitsOf "001111000000011") initialEncRegs).1.marks = 2 ∧
      (hdb3Scan (bitsOf "001111000000011") initialEncRegs).1.i = 15) := by decide +kernel

/-! ## Decoders (section 5) -/

/-- Waveform W4 of section 5.2. -/
def w4 : Wave :=
  [⟨0, 1 / 2⟩, ⟨1, 1 / 2⟩, ⟨1, 0⟩, ⟨2, 0⟩, ⟨2, -3⟩, ⟨3, -3⟩, ⟨3, 1 / 1000000⟩, ⟨4, 1 / 1000000⟩]

theorem test_decNrzl_w4 : bitsAfter .decNrzl (onWave w4) = some (bitsOf "1001", 0) := by decide +kernel
theorem test_decNrzi_w4 : bitsAfter .decNrzi (onWave w4) = some (bitsOf "0111", 0) := by decide +kernel
theorem test_decMan_w4 : bitsAfter .decMan (onWave w4) = some (bitsOf "0000", 0) := by decide +kernel
theorem test_decDman_w4 : bitsAfter .decDman (onWave w4) = some (bitsOf "1000", 0) := by decide +kernel
theorem test_decAmi_w4 : bitsAfter .decAmi (onWave w4) = some (bitsOf "1010", 0) := by decide +kernel

/-- Section 5.2, W2 (final time 3.5 rounds to 4) and W5 (0.4 rounds to 0). -/
theorem test_dec_rounding :
    bitsAfter .decNrzl (onWave [⟨0, 1⟩, ⟨7 / 2, 1⟩]) = some (bitsOf "1111", 0) ∧
    bitsAfter .decNrzl (onWave [⟨0, 1⟩, ⟨2 / 5, 1⟩]) = some ([], 0) := by decide +kernel

theorem test_decNrzi_own : decodesOwn .encNrzi .decNrzi "10110" "00110" = true := by decide +kernel
theorem test_decMan_own : decodesOwn .encMan .decMan "10110" "10110" = true := by decide +kernel
theorem test_decDman_own : decodesOwn .encDman .decDman "0110" "1110" = true := by decide +kernel

/-- Section 5.3: `DEC.AMI` on a B8ZS waveform. -/
theorem test_decAmi_scrambled : decodesOwn .encAmiB8zs .decAmi "1000000001" "1000110111" = true := by decide +kernel

/-! ## Analyzer (section 6) -/

theorem test_analyze_nonzero_start : reportAfter "1011000000000101" = some (3, 11, 9) := by decide +kernel
theorem test_analyze_tie : reportAfter "1100" = some (0, 2, 2) := by decide +kernel

/-- Section 6, the radius array of the Manacher engine on `1001`. -/
theorem test_manacher_radii : (manacherRegs (bitsOf "1001")).P = [0, 0, 1, 0, 1, 4, 1, 0, 1, 0, 0] := by
  decide +kernel

theorem test_manacher_result : manacher (bitsOf "001111000000011") = (4, 11) := by decide +kernel

/-! ## Failures (sections 4.3, 7 and 8) -/

/-- A state with something in every result, to see it cleared. -/
def busy : State :=
  { onBits "10" with bitout := [true], waveout := [⟨0, 1⟩], rptPalStart := 1, rptPalLen := 2, rptZrun := 3 }

theorem test_unsupportedCombination :
    stateAfter (exec .encManB8zs busy) = some { onBits "10" with status := 4 } := by decide +kernel

theorem test_unsupportedDecode :
    stateAfter (exec .decManHdb3 busy) = some { onBits "10" with status := 5 } := by decide +kernel

/-- Section 8, P4's last line: a reserved word clears the results. -/
theorem test_illegalCommand :
    stateAfter (step { busy with frame := some (frameOf 0x0200 8 (-1) 1 1) }) =
      some { onBits "10" with status := 6 } := by decide +kernel

/-- Finite `NMAX`: 2 bits need 4 points. -/
theorem test_capacityExceeded :
    (stateAfter (exec .encAmi { onBits "10" with config := { nmax := some 3 } })).map State.status = some 8 ∧
    (stateAfter (exec .encAmi { onBits "10" with config := { nmax := some 4 } })).map State.status = some 0 := by
  decide +kernel

/-! ## The host's tools -/

theorem test_parseBinary_space : parseBinary "10 1".toList = .error .invalidBitString := by rfl

/-- 45_host_frontend.md R192's example. -/
theorem test_parseAnalogSamples :
    (match parseAnalogSamples spellReal "0.5, ,abc,-1".toList with
      | .ok xs => decide (xs = [1 / 2, -1])
      | .error _ => false) = true := by decide +kernel

/-- 95_test_vectors.md P2's command line. -/
theorem test_assemble_pcm :
    (match assembleLine "PCM bps=3, lo=0, hi=1      ; CW 0x0004".toList with
      | .ok (some op) => decide (op = .issue { cw := 4, args := { bps := 3, lo := 0, hi := 1, step := 1 / 10 } })
      | _ => false) = true := by decide +kernel

theorem test_assemble_load :
    (match assembleLine "LOAD.W (0,+1) (1/2,-1)".toList with
      | .ok (some op) => decide (op = .writeWavein [⟨0, 1⟩, ⟨1 / 2, -1⟩])
      | _ => false) = true := by decide +kernel

/-- A bare `LOAD.W`, the model's choice (log 13). -/
theorem test_assemble_bare_loadW :
    (match assembleLine "LOAD.W".toList with
      | .ok (some op) => decide (op = .writeWavein [])
      | _ => false) = true := by decide +kernel

/-- `.cw` with a defined word, the model's choice (log 13). -/
theorem test_assemble_cw_defined :
    (match assembleLine ".cw 0x0004".toList with
      | .ok (some op) => decide (op = .issue { cw := 4, args := assemblerDefaults })
      | _ => false) = true := by decide +kernel

/-- 95_test_vectors.md P4's first two lines and its last, with a comment line. -/
theorem test_assemble_program :
    (match assemble ["LOAD.B \"10\"".toList, "; a comment".toList, "ENC.MAN.B8ZS".toList, ".cw 0x0200".toList] with
      | .ok ops => decide (ops = [.writeBitin [true, false], .issue { cw := 0xA1, args := assemblerDefaults },
          .issue { cw := 0x200, args := assemblerDefaults }])
      | .error _ => false) = true := by decide +kernel

/-! ## Witnesses: the hypotheses of each statement are met -/

def presented (cw : Word) : State := { onBits "1001" with frame := some { cw := cw, args := assemblerDefaults } }

theorem witness_StepRunsPresentedCommand :
    (presented 0x41).frame = some { cw := 0x41, args := assemblerDefaults } ∧ decode 0x41#16 = .ok .encAmi :=
  ⟨rfl, rfl⟩

theorem witness_ReservedWordIsIllegalCommand :
    (presented 0x200).frame = some { cw := 0x200, args := assemblerDefaults } ∧ reservedWord 0x200#16 = true :=
  ⟨rfl, rfl⟩

theorem witness_DecodeInvertsEncode : decode 0x42#16 = .ok .decAmi := rfl

theorem witness_HostActsBetweenCommands :
    (onBits "1").frame = none ∧ { onBits "1" with schedule := [.xferB] }.schedule = .xferB :: [] ∧
    (onBits "1").schedule = [] := ⟨rfl, rfl, rfl⟩

theorem witness_HostCannotWriteResults :
    HostOp.xferB ≠ .reset ∧ performHostOp .xferB busy = .next { busy with bitin := [true] } :=
  ⟨by decide, rfl⟩

theorem witness_HostReadsHaveNoSideEffect :
    performHostOp (.read .status) busy = .next { busy with seen := [.code 0] } := rfl

/-- Every clause, at element 0 and, for the fault, at the first index past the end. -/
theorem witness_HostReadValues :
    busy.bitin[0]? = some true ∧ (onSamples assemblerDefaults [1]).sampin[0]? = some 1 ∧
    (onWave w4).wavein[0]? = some ⟨0, 1 / 2⟩ ∧ busy.bitout[0]? = some true ∧ busy.waveout[0]? = some ⟨0, 1⟩ ∧
    bufferLength .bitin busy ≤ 2 := by decide +kernel

theorem witness_ResetEventRestoresTheTable :
    busy.frame = none ∧ { busy with schedule := [.reset] }.schedule = .reset :: [] := ⟨rfl, rfl⟩

theorem witness_NoCommandStopsTheMachine :
    step { busy with schedule := [.read (.element .bitin 2)] } = .fault (.noSuchElement .bitin 2) := rfl

theorem witness_OperandsNeedAFrame : busy.frame = none := rfl

theorem witness_CommandKeepsInputs : exec .analyze busy = .next (runAnalyze busy) := rfl

theorem witness_FailureLeavesOnlyItsCode :
    exec .encManB8zs busy = .next (afterFailure busy 4) ∧ (afterFailure busy 4).status ≠ 0 := ⟨rfl, by decide⟩

/-- Two states that differ in every result and in `STATUS` only. -/
theorem witness_ResultsIgnoreEarlierCommands :
    busy.frame = (onBits "10").frame ∧ busy.bitin = (onBits "10").bitin ∧ busy.sampin = (onBits "10").sampin ∧
    busy.wavein = (onBits "10").wavein ∧ busy.config = (onBits "10").config ∧
    exec .encAmi busy = .next (encFrame (scanBits amiBit) busy) := ⟨rfl, rfl, rfl, rfl, rfl, rfl⟩

theorem witness_UnusedOperandsIgnored :
    Instr.encAmi ≠ .pcm ∧ Instr.encAmi ≠ .dm ∧
    (pcmArgs 8 (-1) 1).bps = assemblerDefaults.bps ∧ (pcmArgs 8 (-1) 1).lo = assemblerDefaults.lo ∧
    (pcmArgs 8 (-1) 1).hi = assemblerDefaults.hi ∧ (dmArgs (1 / 10)).step = assemblerDefaults.step := by
  decide +kernel

theorem reset_inv : State.reset.Inv where
  waveform := by simp [IsWaveform, NonDecreasingTimes, State.reset]
  ternary := by simp [TernaryLevels, State.reset]
  halfUnits := by simp [State.reset]
  status := by simp [StatusWritable, State.reset]
  failureLeavesNothing := by simp [State.reset]
  oneKindOfResult := by simp [State.reset]
  reportAlone := by simp [State.reset]
  bitoutFits := rfl
  waveoutFits := rfl
  workEmpty := rfl

theorem fits_unbounded (s : State) (n : Nat) (h : s.config = Config.unbounded) : Fits s n := by
  intro m hm
  rw [h] at hm
  cases hm

theorem witness_StepKeepsInvariant : State.reset.Inv ∧ step State.reset = .next State.reset := ⟨reset_inv, rfl⟩

theorem witness_PcmQuantizes :
    (onSamples (pcmArgs 1 0 1) [1]).frame = some { cw := 0, args := pcmArgs 1 0 1 } ∧
    1 ≤ (pcmArgs 1 0 1).bps ∧ (pcmArgs 1 0 1).lo < (pcmArgs 1 0 1).hi ∧
    (onSamples (pcmArgs 1 0 1) [1]).sampin[0]? = some 1 ∧ (pcmArgs 0 0 1).bps < 1 ∧
    (pcmArgs 8 1 1).hi ≤ (pcmArgs 8 1 1).lo := by decide +kernel

theorem witness_PcmQuantizes_fits :
    Fits (onSamples (pcmArgs 1 0 1) [1]) 1 := fits_unbounded _ _ rfl

theorem witness_DmTracksTheInput :
    (onSamples (dmArgs 1) [0, 1]).frame = some { cw := 0, args := dmArgs 1 } ∧ 0 < (dmArgs 1).step ∧
    (onSamples (dmArgs 1) [0, 1]).sampin = 0 :: [1] ∧ (onSamples (dmArgs 1) []).sampin = [] ∧
    (dmArgs 0).step ≤ 0 := by decide +kernel

theorem witness_DmTracksTheInput_fits : Fits (onSamples (dmArgs 1) [0, 1]) 2 := fits_unbounded _ _ rfl

theorem witness_FrontEndsWithNoBits :
    (onSamples assemblerDefaults []).sampin = [] ∧ 1 ≤ assemblerDefaults.bps ∧
    assemblerDefaults.lo < assemblerDefaults.hi ∧ 0 < assemblerDefaults.step ∧
    (onSamples assemblerDefaults [1]).sampin = [1] := by decide +kernel

/-- The encoders' hypothesis, unbounded and at the bound of a finite `NMAX`. -/
theorem witness_encoders_fit :
    Fits (onBits "1001") (4 * (onBits "1001").bitin.length) ∧
    Fits { onBits "10" with config := { nmax := some 4 } } (2 * 2) := by
  refine ⟨fits_unbounded _ _ rfl, ?_⟩
  intro m hm
  cases hm
  exact Nat.le_refl 4

theorem witness_EncoderGeometry : (Instr.encAmiHdb3, 2) ∈ encCommands ∧ (Instr.encDman, 4) ∈ encCommands := by decide

theorem witness_EncodingNothing : (Instr.encMan, 4) ∈ encCommands ∧ State.reset.bitin = [] := by decide

theorem witness_B8zsNeverEightZeros :
    exec .encAmiB8zs (onBits "00000000") = .next (encFrame b8zsScan (onBits "00000000")) ∧
    (encFrame b8zsScan (onBits "00000000")).status = 0 ∧ 0 + 8 ≤ (onBits "00000000").bitin.length :=
  ⟨rfl, by decide +kernel, by decide +kernel⟩

theorem witness_Hdb3NeverFourZeros :
    exec .encAmiHdb3 (onBits "0000") = .next (encFrame hdb3Scan (onBits "0000")) ∧
    (encFrame hdb3Scan (onBits "0000")).status = 0 ∧ 0 + 4 ≤ (onBits "0000").bitin.length :=
  ⟨rfl, by decide +kernel, by decide +kernel⟩

/-- An input of seven zeros and one of three: the longest without a window. -/
theorem witness_ScrambledIsPlainWithoutWindows :
    (∀ i, ¬ ZerosAt (List.replicate 7 false) i 8) ∧ (∀ i, ¬ ZerosAt (List.replicate 3 false) i 4) := by
  constructor
  · intro i h
    have := h 7 (by omega)
    simp at this
  · intro i h
    have := h 3 (by omega)
    simp at this

theorem witness_LevelAtInsideASegment :
    (0 : R) < 1 ∧ ([1, -1] : List R)[(1 : Nat)]? = some (-1) ∧ ((1 : Nat) : R) * 1 < 2 ∧ (2 : R) ≤ (((1 : Nat) : R) + 1) * 1 ∧
    heldLevels 1 [1, -1] = ⟨0, 1⟩ :: [⟨1, 1⟩, ⟨1, -1⟩, ⟨2, -1⟩] := by decide +kernel

/-- The decoders' hypotheses, at a final time of exactly 1/2 (one interval) and of 0 (none). -/
theorem witness_decoders :
    (onWave [⟨1 / 2, 1⟩]).wavein.getLast? = some ⟨1 / 2, 1⟩ ∧ (0 : R) ≤ 1 / 2 ∧ intervalsOf (1 / 2) = 1 ∧
    (onWave [⟨0, 1⟩]).wavein.getLast? = some ⟨0, 1⟩ ∧ (0 : R) ≤ 0 ∧ intervalsOf 0 = 0 := by decide +kernel

theorem witness_decoders_fit : Fits (onWave [⟨1 / 2, 1⟩]) 1 := fits_unbounded _ _ rfl

theorem witness_DecodingNoInterval :
    Instr.decDman ∈ decCommands ∧ (onWave [⟨2 / 5, 1⟩]).wavein.getLast? = some ⟨2 / 5, 1⟩ ∧ (2 / 5 : R) < 1 / 2 := by
  decide +kernel

theorem witness_RoundTrips :
    (onBits "1").bitin ≠ [] ∧ (onBits "1").bitin = true :: [] ∧
    (Instr.encNrzl, Instr.decNrzl, 2) ∈ exactPairs ∧ (Instr.encMan, Instr.decMan, 4) ∈ exactPairs := by
  decide +kernel

/-- Each round trip at the bound of a finite `NMAX`. -/
theorem witness_RoundTrips_fit :
    Fits { onBits "1" with config := { nmax := some 2 } } (2 * 1) ∧
    Fits { onBits "1" with config := { nmax := some 4 } } (4 * 1) := by
  constructor
  · intro m hm
    cases hm
    exact Nat.le_refl 2
  · intro m hm
    cases hm
    exact Nat.le_refl 4

theorem witness_AnalyzeReports : Fits (onBits "1001") (onBits "1001").bitin.length := fits_unbounded _ _ rfl

theorem witness_ReportedTextIsAPalindrome :
    exec .analyze (onBits "110") = .next (runAnalyze (onBits "110")) ∧ (runAnalyze (onBits "110")).status = 0 :=
  ⟨rfl, by decide +kernel⟩

theorem witness_ScrambledNonAmiEncodingFails :
    ((0x0131#16, Instr.encDmanHdb3) : Word × Instr) ∈
      [ (0x0081#16, Instr.encNrzlB8zs), (0x0091#16, .encNrziB8zs), (0x00A1#16, .encManB8zs),
        (0x00B1#16, .encDmanB8zs), (0x0101#16, .encNrzlHdb3), (0x0111#16, .encNrziHdb3),
        (0x0121#16, .encManHdb3), (0x0131#16, .encDmanHdb3) ] := by decide

theorem witness_DecodingWithoutInverseFails : Instr.decAmi ∈ decCommands ∧ State.reset.wavein = [] := by decide

theorem not_fits (s : State) (m n : Nat) (h : s.config.nmax = some m) (hn : m < n) : ¬ Fits s n := fun hf =>
  absurd (hf m h) (by omega)

/-- Each clause, one element past the capacity. -/
theorem witness_CapacityExceededFails :
    ¬ Fits { onBits "10" with config := { nmax := some 3 } } (2 * 2) ∧
    ¬ Fits { onWave w4 with config := { nmax := some 7 } } w4.length ∧
    ¬ Fits { onWave [⟨8, 1⟩] with config := { nmax := some 7 } } (intervalsOf 8) ∧
    ¬ Fits { onSamples (pcmArgs 3 0 1) [1] with config := { nmax := some 2 } } (3 * 1) ∧
    ¬ Fits { onSamples (dmArgs 1) [0, 1] with config := { nmax := some 1 } } 2 :=
  ⟨not_fits _ 3 _ rfl (by decide), not_fits _ 7 _ rfl (by decide), not_fits _ 7 _ rfl (by decide +kernel),
    not_fits _ 2 _ rfl (by decide), not_fits _ 1 _ rfl (by decide)⟩

theorem witness_AnalyzeCapacity : ¬ Fits { onBits "10" with config := { nmax := some 1 } } 2 :=
  not_fits _ 1 _ rfl (by decide)

theorem witness_UnboundedNeverExceedsCapacity :
    (onBits "10").config.nmax = none ∧ exec .encAmi (onBits "10") = .next (encFrame (scanBits amiBit) (onBits "10")) :=
  ⟨rfl, rfl⟩

/-- What `IsTrimOf` says of a token with white space at both ends and inside, and of one that is white space only. -/
theorem test_isTrimOf :
    IsTrimOf " 0 5\t".toList "0 5".toList ∧ IsTrimOf "  ".toList [] ∧ ¬ IsTrimOf " 1".toList " 1".toList :=
  ⟨⟨" ".toList, "\t".toList, by decide, by simp, by simp, by simp, by simp⟩,
    ⟨"  ".toList, [], by decide, by simp, by simp, by simp, by simp⟩,
    fun ⟨_, _, _, _, _, hd, _⟩ => absurd (hd ' ' rfl) (by decide)⟩

theorem witness_ParseAnalogSamples :
    ["0.5".toList, " ".toList] ≠ [] ∧ ∀ tk ∈ ["0.5".toList, " ".toList], ',' ∉ tk := by decide +kernel

end Sys2Proof.Tests
end

section
/-!
PROOFS of the statements about the state (10_state.md): what a command keeps, the operands it reads, the palindrome's
text, and the invariant of the output side.
-/

namespace Sys2Proof.Machine

open Sys2Proof.Spec

/-! ## What a command keeps and which operands it reads -/

/-- Settles O11: each item of the table of R34 is a field of the reset state. -/
theorem resetStateIsTheTable : Obligations.ResetStateIsTheTable :=
  ⟨rfl, rfl, rfl, rfl, rfl, rfl, rfl, rfl, rfl, rfl, rfl⟩

theorem execPcm_no_frame {s : State} (h : s.frame = none) : execPcm s = .refused .noCommandFrame := by
  rw [execPcm, h]

theorem execDm_no_frame {s : State} (h : s.frame = none) : execDm s = .refused .noCommandFrame := by
  rw [execDm, h]

/-- Settles O14: both meanings match on the frame first. -/
theorem operandsNeedAFrame : Obligations.OperandsNeedAFrame :=
  fun _ h => ⟨execPcm_no_frame h, execDm_no_frame h⟩

/-- Settles O15: each of the four ways a command ends rewrites result fields and then ends the command. -/
theorem commandKeepsInputs : Obligations.CommandKeepsInputs := by
  intro i s t h
  cases exec_ends h with
  | failed f _ _ ht => simp [ht]
  | bits out _ ht => simp [ht]
  | wave body _ _ ht => simp [ht]
  | report a len z ht => simp [ht]

section
variable (s : State) (fr : Option Frame)

theorem encFrame_ignores_frame (body : List Bit → Emit) :
    encFrame body { s with frame := fr } = encFrame body s := rfl

theorem decFrame_ignores_frame (seed : (R → R) → Option Sgn) (interval : (R → R) → DecRegs → DecRegs × Bit) :
    decFrame seed interval { s with frame := fr } = decFrame seed interval s := rfl

theorem runAnalyze_ignores_frame : runAnalyze { s with frame := fr } = runAnalyze s := rfl

theorem failingCommand_ignores_frame (f : Failure) :
    failingCommand f { s with frame := fr } = failingCommand f s := rfl

theorem runPcm_ignores_frame (a : Args) : runPcm a { s with frame := fr } = runPcm a s := rfl

theorem runDm_ignores_frame (a : Args) : runDm a { s with frame := fr } = runDm a s := rfl

/-- Only `PCM` and `DM` look at the frame: the other meanings go through one of four shared operations that do not. -/
theorem exec_ignores_frame (i : Instr) (hp : i ≠ .pcm) (hd : i ≠ .dm) : exec i { s with frame := fr } = exec i s := by
  cases i
  case pcm => exact absurd rfl hp
  case dm => exact absurd rfl hd
  case analyze => exact congrArg Host.Outcome.next (runAnalyze_ignores_frame s fr)
  case encNrzl | encNrzi | encMan | encDman | encAmi | encAmiB8zs | encAmiHdb3 =>
    exact congrArg Host.Outcome.next (encFrame_ignores_frame s fr _)
  case decNrzl | decNrzi | decMan | decDman | decAmi => exact congrArg Host.Outcome.next (decFrame_ignores_frame s fr _ _)
  all_goals exact congrArg Host.Outcome.next (failingCommand_ignores_frame s fr _)

/-- `PCM` reads three of the operand registers. -/
theorem runPcm_reads_bps_lo_hi {a b : Args} (hbps : a.bps = b.bps) (hlo : a.lo = b.lo) (hhi : a.hi = b.hi) :
    runPcm a s = runPcm b s := by
  have hok : pcmParametersOk a = pcmParametersOk b := by rw [pcmParametersOk, hbps, hlo, hhi]; rfl
  have hq : quantize a = quantize b := by funext x; rw [quantize, hbps, hlo, hhi]; rfl
  have hbits : pcmBits a = pcmBits b := by funext xs; rw [pcmBits, hbps, hq]; rfl
  rw [runPcm, hok, hbits]
  rfl

/-- `DM` reads one operand register. -/
theorem runDm_reads_step {a b : Args} (h : a.step = b.step) : runDm a s = runDm b s := by
  rw [runDm, h]
  rfl

end

/-- Settles O18: the frame reaches a command only as the operands of `PCM` and `DM`. -/
theorem unusedOperandsIgnored : Obligations.UnusedOperandsIgnored := by
  refine ⟨fun i s fr hp hd => exec_ignores_frame s fr i hp hd, fun s f g hbps hlo hhi => ?_, fun s f g hstep => ?_⟩
  · exact congrArg Host.Outcome.next (runPcm_reads_bps_lo_hi s hbps hlo hhi)
  · exact congrArg Host.Outcome.next (runDm_reads_step s hstep)

/-! ## The palindrome and its text -/

theorem isPalindromeAt_iff (s : List Bit) (a len : Nat) :
    isPalindromeAt s a len = true ↔ ∀ k, k < len → s[a + k]? = s[a + len - 1 - k]? := by
  simp [isPalindromeAt]

theorem firstPalindrome_palindromeAt {s : List Bit} {len a : Nat} (h : firstPalindrome s len = some a) :
    PalindromeAt s a len := by
  have hmem : a ∈ List.range (s.length + 1 - len) := List.mem_of_find?_eq_some h
  have hpal : isPalindromeAt s a len = true := List.find?_some (p := fun a => isPalindromeAt s a len) h
  refine ⟨?_, (isPalindromeAt_iff s a len).1 hpal⟩
  rw [List.mem_range] at hmem
  omega

theorem longestPalindromeUpTo_palindromeAt (s : List Bit) (n : Nat) :
    PalindromeAt s (longestPalindromeUpTo s n).1 (longestPalindromeUpTo s n).2 := by
  induction n with
  | zero => exact ⟨Nat.zero_le _, fun k hk => absurd hk (Nat.not_lt_zero k)⟩
  | succ n ih =>
    rw [longestPalindromeUpTo]
    split
    case h_1 a h => exact firstPalindrome_palindromeAt h
    case h_2 => exact ih

/-- A palindrome's window, cut out of the string, is its own reverse. -/
theorem reverse_window_of_palindromeAt {s : List Bit} {a len : Nat} (h : PalindromeAt s a len) :
    ((s.drop a).take len).reverse = (s.drop a).take len := by
  obtain ⟨hfits, hsym⟩ := h
  have hlen : ((s.drop a).take len).length = len := by simp; omega
  refine List.ext_getElem? fun k => ?_
  by_cases hk : k < len
  · have hmirror : len - 1 - k < len := by omega
    have hidx : a + (len - 1 - k) = a + len - 1 - k := by omega
    rw [List.getElem?_reverse (by omega), hlen, List.getElem?_take_of_lt hmirror, List.getElem?_take_of_lt hk,
      List.getElem?_drop, List.getElem?_drop, hidx, hsym k hk]
  · rw [List.getElem?_eq_none (by simp; omega), List.getElem?_eq_none (by omega)]

/-- `ANALYZE` that completes has reported a palindrome of the string it leaves in `BITIN`. -/
theorem execAnalyze_reports_palindrome {s t : State} (h : exec .analyze s = .next t) (hok : t.status = 0) :
    PalindromeAt t.bitin t.rptPalStart t.rptPalLen := by
  obtain rfl : runAnalyze s = t := Host.Outcome.next.inj h
  by_cases hfits : fitsCapacity s.config s.bitin.length = true
  · rw [runAnalyze, if_pos hfits]
    exact longestPalindromeUpTo_palindromeAt s.bitin s.bitin.length
  · rw [runAnalyze, if_neg hfits] at hok
    exact absurd hok (by simp [failureCode])

/-- Settles O49: the text is the reported window of `BITIN`, character by character. -/
theorem reportedTextIsAPalindrome : Obligations.ReportedTextIsAPalindrome := by
  intro s t h hok
  have hpal := execAnalyze_reports_palindrome h hok
  refine ⟨?_, ?_, fun k hk => ?_⟩
  · have := hpal.1
    simp [longestPalindromeText]
    omega
  · rw [longestPalindromeText, ← List.map_reverse, reverse_window_of_palindromeAt hpal]
  · rw [longestPalindromeText, List.getElem?_map, List.getElem?_take_of_lt hk, List.getElem?_drop]

end Sys2Proof.Machine
end

section
/-!
PROOFS that every step keeps the invariant of the output side (`State.Inv`): what an ENC body emits, what a command
ends in, and what the host can touch.
-/

namespace Sys2Proof.Machine

/-! ## The waveform an ENC body emits

An emitter moves the time cursor from one half unit to a later one and puts its points between the two. -/

/-- The points of `w`, with levels -1, 0 and +1, lie in order on the half units `a` to `b`. -/
structure SpansHalfUnits (a b : Nat) (w : Wave) : Prop where
  le : a ≤ b
  times : ∀ p ∈ w, ∃ k : Nat, a ≤ k ∧ k ≤ b ∧ p.time = (k : R) / 2
  nonDecreasing : NonDecreasingTimes w
  ternary : TernaryLevels w

/-- An emitter started on a half unit stops on a later one and emits its points between the two. -/
def Emit.KeepsHalfUnits (e : Emit) : Prop :=
  ∀ (r : EncRegs) (a : Nat), r.t = (a : R) / 2 →
    ∃ b : Nat, (e r).1.t = (b : R) / 2 ∧ SpansHalfUnits a b (e r).2

theorem halfUnit_le_halfUnit {m n : Nat} (h : m ≤ n) : (m : R) / 2 ≤ (n : R) / 2 := by
  have : (m : R) ≤ (n : R) := Nat.cast_le.2 h
  linarith

theorem spansHalfUnits_nil (a : Nat) : SpansHalfUnits a a [] where
  le := le_rfl
  times := by simp
  nonDecreasing := .nil
  ternary := by simp [TernaryLevels]

theorem SpansHalfUnits.append {a b c : Nat} {v w : Wave} (hv : SpansHalfUnits a b v) (hw : SpansHalfUnits b c w) :
    SpansHalfUnits a c (v ++ w) where
  le := hv.le.trans hw.le
  times p hp := by
    rcases List.mem_append.1 hp with hp | hp
    · obtain ⟨k, hak, hkb, hk⟩ := hv.times p hp
      exact ⟨k, hak, hkb.trans hw.le, hk⟩
    · obtain ⟨k, hbk, hkc, hk⟩ := hw.times p hp
      exact ⟨k, hv.le.trans hbk, hkc, hk⟩
  nonDecreasing := by
    refine List.pairwise_append.2 ⟨hv.nonDecreasing, hw.nonDecreasing, fun p hp q hq => ?_⟩
    obtain ⟨k, -, hkb, hk⟩ := hv.times p hp
    obtain ⟨l, hbl, -, hl⟩ := hw.times q hq
    rw [hk, hl]
    exact halfUnit_le_halfUnit (hkb.trans hbl)
  ternary p hp := (List.mem_append.1 hp).elim (hv.ternary p) (hw.ternary p)

/-- A segment of `m` half units at a level -1, 0 or +1. -/
theorem seg_keepsHalfUnits {l d : R} (hl : l = -1 ∨ l = 0 ∨ l = 1) (m : Nat) (hd : d = (m : R) / 2) :
    (seg l d).KeepsHalfUnits := by
  intro r a ha
  have hend : r.t + d = ((a + m : Nat) : R) / 2 := by rw [ha, hd]; push_cast; ring
  have hle : r.t ≤ r.t + d := by rw [hend, ha]; exact halfUnit_le_halfUnit (Nat.le_add_right a m)
  refine ⟨a + m, hend, Nat.le_add_right a m, ?_, ?_, ?_⟩
  · simp only [seg_apply, List.forall_mem_cons, List.not_mem_nil, IsEmpty.forall_iff, implies_true, and_true]
    exact ⟨⟨a, le_rfl, Nat.le_add_right a m, ha⟩, ⟨a + m, Nat.le_add_right a m, le_rfl, hend⟩⟩
  · simpa [NonDecreasingTimes] using hle
  · simpa [TernaryLevels] using hl

theorem seg_one_keepsHalfUnits {l : R} (hl : l = -1 ∨ l = 0 ∨ l = 1) : (seg l 1).KeepsHalfUnits :=
  seg_keepsHalfUnits hl 2 (by norm_num)

theorem seg_sgnLevel_keepsHalfUnits (x : Sgn) : (seg (sgnLevel x) 1).KeepsHalfUnits :=
  seg_one_keepsHalfUnits (sgnLevel_ternary x)

theorem seg_zero_keepsHalfUnits : (seg 0 1).KeepsHalfUnits := seg_one_keepsHalfUnits (.inr (.inl rfl))

theorem seg_half_keepsHalfUnits {l : R} (hl : l = -1 ∨ l = 0 ∨ l = 1) : (seg l (1 / 2)).KeepsHalfUnits :=
  seg_keepsHalfUnits hl 1 (by norm_num)

theorem advance_keepsHalfUnits (k : Nat) : (advance k).KeepsHalfUnits :=
  fun _ a ha => ⟨a, ha, spansHalfUnits_nil a⟩

theorem emitThen_keepsHalfUnits {e f : Emit} (he : e.KeepsHalfUnits) (hf : f.KeepsHalfUnits) :
    (emitThen e f).KeepsHalfUnits := by
  intro r a ha
  obtain ⟨b, hb, hspan⟩ := he r a ha
  obtain ⟨c, hc, hspan'⟩ := hf (e r).1 b hb
  exact ⟨c, hc, hspan.append hspan'⟩

theorem emitAll_keepsHalfUnits {es : List Emit} (h : ∀ e ∈ es, e.KeepsHalfUnits) : (emitAll es).KeepsHalfUnits := by
  induction es with
  | nil => exact fun _ a ha => ⟨a, ha, spansHalfUnits_nil a⟩
  | cons e es ih =>
    obtain ⟨he, hes⟩ := List.forall_mem_cons.1 h
    exact emitThen_keepsHalfUnits he (ih hes)

theorem scanBits_keepsHalfUnits {code : Bit → Emit} (h : ∀ b, (code b).KeepsHalfUnits) (bits : List Bit) :
    (scanBits code bits).KeepsHalfUnits := by
  induction bits with
  | nil => exact emitAll_keepsHalfUnits (by simp)
  | cons b bs ih => exact emitThen_keepsHalfUnits (h b) ih

theorem substitutionScan_keepsHalfUnits {k : Nat} {window : Emit} {code : Bit → Emit}
    (hw : window.KeepsHalfUnits) (hc : ∀ b, (code b).KeepsHalfUnits) (bits : List Bit) (n : Nat) :
    (substitutionScan k window code bits n).KeepsHalfUnits := by
  induction bits generalizing n with
  | nil => rw [substitutionScan_nil]; exact emitAll_keepsHalfUnits (by simp)
  | cons b bs ih =>
    cases n with
    | succ n => exact ih n
    | zero =>
      rw [substitutionScan]
      split
      · exact emitThen_keepsHalfUnits hw (ih (k - 1))
      · exact emitThen_keepsHalfUnits (hc b) (ih 0)

/-! ### The pieces of the seven ENC bodies -/

theorem pulse_ternary (b : Bit) : (if b then 1 else -1 : R) = -1 ∨ (if b then 1 else -1 : R) = 0 ∨
    (if b then 1 else -1 : R) = 1 := by
  cases b <;> simp

/-- One whole interval at one level. -/
theorem interval_keepsHalfUnits {l : R} (hl : l = -1 ∨ l = 0 ∨ l = 1) (k : Nat) :
    (emitAll [seg l 1, advance k]).KeepsHalfUnits :=
  emitThen_keepsHalfUnits (seg_one_keepsHalfUnits hl) (emitAll_keepsHalfUnits (by simp [advance_keepsHalfUnits]))

/-- One interval in two halves. -/
theorem halves_keepsHalfUnits {l l' : R} (hl : l = -1 ∨ l = 0 ∨ l = 1) (hl' : l' = -1 ∨ l' = 0 ∨ l' = 1) (k : Nat) :
    (emitAll [seg l (1 / 2), seg l' (1 / 2), advance k]).KeepsHalfUnits :=
  emitThen_keepsHalfUnits (seg_half_keepsHalfUnits hl)
    (emitThen_keepsHalfUnits (seg_half_keepsHalfUnits hl') (emitAll_keepsHalfUnits (by simp [advance_keepsHalfUnits])))

theorem nrzlBit_keepsHalfUnits (b : Bit) : (nrzlBit b).KeepsHalfUnits :=
  interval_keepsHalfUnits (pulse_ternary b) 1

theorem nrziBit_keepsHalfUnits (b : Bit) : (nrziBit b).KeepsHalfUnits := by
  intro r a ha
  unfold nrziBit
  exact interval_keepsHalfUnits (sgnLevel_ternary _) 1 _ a ha

theorem manBit_keepsHalfUnits (b : Bit) : (manBit b).KeepsHalfUnits :=
  halves_keepsHalfUnits (pulse_ternary b) (by cases b <;> simp) 1

theorem dmanBit_keepsHalfUnits (b : Bit) : (dmanBit b).KeepsHalfUnits := by
  intro r a ha
  unfold dmanBit
  exact halves_keepsHalfUnits (sgnLevel_ternary _) (sgnLevel_ternary _) 1 _ a ha

theorem amiBit_keepsHalfUnits (b : Bit) : (amiBit b).KeepsHalfUnits := by
  intro r a ha
  unfold amiBit
  refine interval_keepsHalfUnits ?_ 1 _ a ha
  split
  · exact sgnLevel_ternary _
  · exact .inr (.inl rfl)

theorem emitV_keepsHalfUnits : emitV.KeepsHalfUnits := fun _ => seg_sgnLevel_keepsHalfUnits _ _

theorem emitB_keepsHalfUnits : emitB.KeepsHalfUnits := fun _ => seg_sgnLevel_keepsHalfUnits _ _

theorem b8zsWindow_keepsHalfUnits : b8zsWindow.KeepsHalfUnits :=
  emitAll_keepsHalfUnits
    (by simp [seg_zero_keepsHalfUnits, emitV_keepsHalfUnits, emitB_keepsHalfUnits, advance_keepsHalfUnits])

theorem b8zsBit_keepsHalfUnits (b : Bit) : (b8zsBit b).KeepsHalfUnits := by
  intro r a ha
  unfold b8zsBit
  split
  · exact interval_keepsHalfUnits (sgnLevel_ternary _) 1 _ a ha
  · exact interval_keepsHalfUnits (.inr (.inl rfl)) 1 _ a ha

theorem hdb3Window_keepsHalfUnits : hdb3Window.KeepsHalfUnits := by
  intro r a ha
  unfold hdb3Window
  split
  · refine emitAll_keepsHalfUnits ?_ _ a ha
    simp [seg_sgnLevel_keepsHalfUnits, seg_zero_keepsHalfUnits, advance_keepsHalfUnits, -sgnLevel_negSgn]
  · refine emitAll_keepsHalfUnits ?_ _ a ha
    simp [seg_sgnLevel_keepsHalfUnits, seg_zero_keepsHalfUnits, advance_keepsHalfUnits]

theorem hdb3Bit_keepsHalfUnits (b : Bit) : (hdb3Bit b).KeepsHalfUnits := by
  intro r a ha
  unfold hdb3Bit
  split
  · exact interval_keepsHalfUnits (sgnLevel_ternary _) 1 _ a ha
  · exact interval_keepsHalfUnits (.inr (.inl rfl)) 1 _ a ha

theorem encBody_keepsHalfUnits {body : List Bit → Emit} (h : body ∈ encBodies) (bits : List Bit) :
    (body bits).KeepsHalfUnits := by
  simp only [encBodies, List.mem_cons, List.not_mem_nil, or_false] at h
  rcases h with rfl | rfl | rfl | rfl | rfl | rfl | rfl
  · exact scanBits_keepsHalfUnits nrzlBit_keepsHalfUnits bits
  · exact scanBits_keepsHalfUnits nrziBit_keepsHalfUnits bits
  · exact scanBits_keepsHalfUnits manBit_keepsHalfUnits bits
  · exact scanBits_keepsHalfUnits dmanBit_keepsHalfUnits bits
  · exact scanBits_keepsHalfUnits amiBit_keepsHalfUnits bits
  · exact substitutionScan_keepsHalfUnits b8zsWindow_keepsHalfUnits b8zsBit_keepsHalfUnits bits 0
  · exact substitutionScan_keepsHalfUnits hdb3Window_keepsHalfUnits hdb3Bit_keepsHalfUnits bits 0

/-- The whole output of an ENC body starts at half unit 0. -/
theorem encBody_spansHalfUnits {body : List Bit → Emit} (h : body ∈ encBodies) (bits : List Bit) :
    ∃ b, SpansHalfUnits 0 b (body bits initialEncRegs).2 := by
  obtain ⟨b, -, hspan⟩ := encBody_keepsHalfUnits h bits initialEncRegs 0 (by simp [initialEncRegs])
  exact ⟨b, hspan⟩

theorem SpansHalfUnits.halfUnits {a b : Nat} {w : Wave} (h : SpansHalfUnits a b w) :
    ∀ p ∈ w, ∃ k : Nat, p.time = (k : R) / 2 := fun p hp =>
  let ⟨k, _, _, hk⟩ := h.times p hp
  ⟨k, hk⟩

theorem SpansHalfUnits.isWaveform {a b : Nat} {w : Wave} (h : SpansHalfUnits a b w) : IsWaveform w := by
  refine ⟨fun p hp => ?_, h.nonDecreasing⟩
  obtain ⟨k, hk⟩ := h.halfUnits p hp
  rw [hk]
  positivity

/-! ## The state a command ends in -/

theorem isWaveform_nil : IsWaveform [] := ⟨by simp, .nil⟩

theorem ternaryLevels_nil : TernaryLevels [] := by simp [TernaryLevels]

theorem statusWritable_statusOk : StatusWritable statusOk := .inl rfl

/-- The two failures the block does not raise are the host's (60_exceptions.md R201). -/
theorem statusWritable_failureCode {f : Failure} (h₁ : f ≠ .invalidBitString) (h₂ : f ≠ .invalidAnalogSample) :
    StatusWritable (failureCode f) := by
  cases f <;> simp_all [StatusWritable, failureCode]

/-- A state without an output waveform, as the commands other than ENC leave it. -/
theorem inv_of_waveout_nil {s : State} (hwave : s.waveout = []) (hstatus : StatusWritable s.status)
    (hfail : s.status ≠ 0 → ResultsCleared s)
    (hreport : s.bitout ≠ [] → s.rptPalStart = 0 ∧ s.rptPalLen = 0 ∧ s.rptZrun = 0)
    (hfits : fitsCapacity s.config s.bitout.length = true) (hwork : s.work = none) : s.Inv where
  waveform := hwave ▸ isWaveform_nil
  ternary := hwave ▸ ternaryLevels_nil
  halfUnits := by simp [hwave]
  status := hstatus
  failureLeavesNothing := hfail
  oneKindOfResult := .inr hwave
  reportAlone h := hreport (h.resolve_right fun hne => hne hwave)
  bitoutFits := hfits
  waveoutFits := by simp [hwave]
  workEmpty := hwork

/-- A state with no results: what a failure and the reset event leave. -/
theorem inv_of_resultsCleared {s : State} (hclear : ResultsCleared s) (hstatus : StatusWritable s.status)
    (hwork : s.work = none) : s.Inv := by
  have ⟨hbits, hwave, hreport⟩ := hclear
  exact inv_of_waveout_nil hwave hstatus (fun _ => hclear) (fun _ => hreport) (by simp [hbits]) hwork

theorem inv_of_waveout {s : State} {b : Nat} (hspan : SpansHalfUnits 0 b s.waveout) (hstatus : s.status = 0)
    (hbits : s.bitout = []) (hreport : s.rptPalStart = 0 ∧ s.rptPalLen = 0 ∧ s.rptZrun = 0)
    (hfits : fitsCapacity s.config s.waveout.length = true) (hwork : s.work = none) : s.Inv where
  waveform := hspan.isWaveform
  ternary := hspan.ternary
  halfUnits := hspan.halfUnits
  status := .inl hstatus
  failureLeavesNothing h := absurd hstatus h
  oneKindOfResult := .inl hbits
  reportAlone _ := hreport
  bitoutFits := by simp [hbits]
  waveoutFits := hfits
  workEmpty := hwork

theorem raise_resultsCleared (f : Failure) (s : State) : ResultsCleared (raise f s) := ⟨rfl, rfl, rfl, rfl, rfl⟩

/-- Whatever it started from, a command ends in a state that meets the invariant. -/
theorem Ends.inv {s t : State} (h : Ends s t) : t.Inv := by
  cases h with
  | failed f h₁ h₂ h =>
    subst h
    exact inv_of_resultsCleared (raise_resultsCleared f s) (statusWritable_failureCode h₁ h₂) rfl
  | bits out fits h =>
    subst h
    exact inv_of_waveout_nil rfl statusWritable_statusOk (absurd rfl) (fun _ => ⟨rfl, rfl, rfl⟩) fits rfl
  | wave body mem fits h =>
    subst h
    obtain ⟨b, hspan⟩ := encBody_spansHalfUnits mem s.bitin
    exact inv_of_waveout hspan rfl rfl ⟨rfl, rfl, rfl⟩ fits rfl
  | report a len z h =>
    subst h
    exact inv_of_waveout_nil rfl statusWritable_statusOk (absurd rfl) (absurd rfl) (by simp) rfl

/-! ## What the host can touch -/

/-- What only the engine writes: the state with the host's items blanked. -/
def engineSide (s : State) : State :=
  { s with frame := none, bitin := [], sampin := [], wavein := [], schedule := [], seen := [] }

/-- The invariant speaks of the engine's side only. -/
theorem engineSide_inv_iff (s : State) : (engineSide s).Inv ↔ s.Inv :=
  ⟨fun ⟨h₁, h₂, h₃, h₄, h₅, h₆, h₇, h₈, h₉, h₁₀⟩ => ⟨h₁, h₂, h₃, h₄, h₅, h₆, h₇, h₈, h₉, h₁₀⟩,
    fun ⟨h₁, h₂, h₃, h₄, h₅, h₆, h₇, h₈, h₉, h₁₀⟩ => ⟨h₁, h₂, h₃, h₄, h₅, h₆, h₇, h₈, h₉, h₁₀⟩⟩

theorem hostRead_eq_recordRead {r : HostRead} {s t : State} (h : hostRead r s = .next t) : ∃ v, t = recordRead v s := by
  cases r with
  | element x k =>
    rw [hostRead] at h
    split at h
    case h_1 v _ => exact ⟨v, (Host.Outcome.next.inj h).symm⟩
    case h_2 => cases h
  | length | contents | rptPalStart | rptPalLen | rptZrun | status => exact ⟨_, (Host.Outcome.next.inj h).symm⟩

/-- No host operation but the reset event touches the engine's side (20_memory.md R58). -/
theorem performHostOp_engineSide {op : HostOp} {s t : State} (hop : op ≠ .reset) (h : performHostOp op s = .next t) :
    engineSide t = engineSide s := by
  cases op with
  | reset => exact absurd rfl hop
  | read r =>
    obtain ⟨v, rfl⟩ := hostRead_eq_recordRead h
    rfl
  | writeBitin | writeSampin | writeWavein | xferB | xferW | issue =>
    obtain rfl := Host.Outcome.next.inj h
    rfl

/-! ## Every step -/

theorem runCommand_ends {f : Frame} {s t : State} (h : runCommand f s = .next t) : Ends s t := by
  unfold runCommand at h
  split at h
  · exact exec_ends h
  · exact Host.Outcome.next.inj h ▸ failingCommand_ends _ (by decide) (by decide) s

/-- Everything a step can do when it answers a next state: a command ends, the reset event happens, or the engine's
side stays as it is. -/
theorem step_cases {s t : State} (h : step s = .next t) :
    Ends s t ∨ (∃ rest, t = resetEvent { s with schedule := rest }) ∨ engineSide t = engineSide s := by
  unfold step at h
  split at h
  · exact .inl (runCommand_ends h)
  · split at h
    case h_1 op rest _ =>
      by_cases hop : op = .reset
      · subst hop
        exact .inr (.inl ⟨rest, (Host.Outcome.next.inj h).symm⟩)
      · exact .inr (.inr ((performHostOp_engineSide hop h).trans rfl))
    case h_2 => exact .inr (.inr (congrArg engineSide (Host.Outcome.next.inj h).symm))

theorem resetEvent_inv (s : State) : (resetEvent s).Inv :=
  inv_of_resultsCleared ⟨rfl, rfl, rfl, rfl, rfl⟩ (.inl rfl) rfl

/-- Settles O20: reset leaves no results, `STATUS` 0 and no working registers. -/
theorem resetMeetsInvariant : Obligations.ResetMeetsInvariant :=
  inv_of_resultsCleared ⟨rfl, rfl, rfl, rfl, rfl⟩ (.inl rfl) rfl

/-- Settles O19: a command and the reset event establish the invariant, and every other step keeps the engine's side
it speaks of. -/
theorem stepKeepsInvariant : Obligations.StepKeepsInvariant := by
  intro s t hs h
  rcases step_cases h with hends | ⟨rest, rfl⟩ | hside
  · exact hends.inv
  · exact resetEvent_inv _
  · rwa [← engineSide_inv_iff, hside, engineSide_inv_iff]

end Sys2Proof.Machine
end

section
/-!
PROOFS about the host's operations (20_memory.md R58, R59): when they happen, what each changes, and what a read
returns.
-/

namespace Sys2Proof.Machine

/-! ## Between commands -/

theorem step_of_schedule_cons {s : State} {op : HostOp} {rest : List HostOp} (hframe : s.frame = none)
    (hschedule : s.schedule = op :: rest) : step s = performHostOp op { s with schedule := rest } := by
  rw [step, hframe, hschedule]

theorem step_of_schedule_nil {s : State} (hframe : s.frame = none) (hschedule : s.schedule = []) :
    step s = .next s := by
  rw [step, hframe, hschedule]

/-- Settles O6: a step without a frame splits on the schedule alone. -/
theorem hostActsBetweenCommands : Obligations.HostActsBetweenCommands :=
  fun _ hframe => ⟨fun _ _ => step_of_schedule_cons hframe, step_of_schedule_nil hframe⟩

/-! ## Writes and copies -/

/-- Settles O7: each of these operations is one record update. -/
theorem hostWritesAndCopies : Obligations.HostWritesAndCopies :=
  fun _ => ⟨fun _ => rfl, fun _ => rfl, fun _ => rfl, rfl, rfl, fun _ => rfl⟩

/-- Settles O8: no operation but the reset event touches the engine's side, and the items named lie on it. -/
theorem hostCannotWriteResults : Obligations.HostCannotWriteResults := by
  intro op s t hop h
  obtain ⟨hconfig, -, -, -, -, hbitout, hwaveout, hstart, hlen, hzrun, hstatus, hwork, -, -⟩ :=
    State.mk.inj (performHostOp_engineSide hop h)
  exact ⟨hbitout, hwaveout, hstart, hlen, hzrun, hstatus, hwork, hconfig⟩

/-! ## Reads -/

/-- Settles O9: a read that answers a next state has recorded its value. -/
theorem hostReadsHaveNoSideEffect : Obligations.HostReadsHaveNoSideEffect :=
  fun _ _ _ h => hostRead_eq_recordRead h

theorem hostRead_element {x : Buffer} {k : Nat} {s : State} {v : HostValue} (h : readElement x k s = some v) :
    hostRead (.element x k) s = .next (recordRead v s) := by
  rw [hostRead, h]

theorem readElement_eq_none {x : Buffer} {k : Nat} {s : State} (h : bufferLength x s ≤ k) :
    readElement x k s = none := by
  cases x <;> exact Option.map_eq_none_iff.2 (List.getElem?_eq_none h)

theorem hostRead_element_past_end {x : Buffer} {k : Nat} {s : State} (h : bufferLength x s ≤ k) :
    hostRead (.element x k) s = .fault (.noSuchElement x k) := by
  rw [hostRead, readElement_eq_none h]

/-- Settles O10: an element read splits on whether the buffer has the element; the other reads always return. -/
theorem hostReadValues : Obligations.HostReadValues := fun _ =>
  ⟨fun _ _ h => hostRead_element (congrArg (Option.map HostValue.bit) h),
    fun _ _ h => hostRead_element (congrArg (Option.map HostValue.real) h),
    fun _ _ h => hostRead_element (congrArg (Option.map HostValue.point) h),
    fun _ _ h => hostRead_element (congrArg (Option.map HostValue.bit) h),
    fun _ _ h => hostRead_element (congrArg (Option.map HostValue.point) h),
    fun _ _ h => hostRead_element_past_end h,
    rfl, rfl, rfl, rfl, rfl, rfl, rfl, rfl, rfl, rfl, rfl, rfl, rfl, rfl⟩

end Sys2Proof.Machine
end

section
/-!
PROOFS about the access primitives `LevelAt` (20_memory.md R56) and `Seg` (R55): what a query returns on any waveform,
and on a waveform of held levels.
-/

namespace Sys2Proof.Machine

open Sys2Proof.Spec

/-! ## `LevelAt` point by point -/

theorem isLevelAt_cons_of_le {p : Point} {ps : Wave} {tx L : R} (h : tx ≤ p.time) :
    IsLevelAt (p :: ps) tx L ↔ p.level = L := by
  constructor
  · rintro (⟨k, q, hk, -, hL, hbefore⟩ | ⟨hbefore, -⟩)
    · cases k with
      | zero => exact Option.some.inj hk ▸ hL
      | succ k => exact absurd (hbefore 0 p k.succ_pos rfl) (not_lt.2 h)
    · exact absurd (hbefore p List.mem_cons_self) (not_lt.2 h)
  · exact fun hL => .inl ⟨0, p, rfl, h, hL, fun j _ hj => absurd hj j.not_lt_zero⟩

theorem isLevelAt_cons_of_lt {p : Point} {ps : Wave} {tx L : R} (h : p.time < tx) :
    IsLevelAt (p :: ps) tx L ↔ IsLevelAt ps tx L ∨ (ps = [] ∧ p.level = L) := by
  constructor
  · rintro (⟨k, q, hk, hle, hL, hbefore⟩ | ⟨hbefore, q, hq, hL⟩)
    · cases k with
      | zero => exact absurd (Option.some.inj hk ▸ hle) (not_le.2 h)
      | succ k => exact .inl (.inl ⟨k, q, hk, hle, hL, fun j r hj => hbefore (j + 1) r (Nat.succ_lt_succ hj)⟩)
    · cases ps with
      | nil =>
        obtain rfl : p = q := Option.some.inj hq
        exact .inr ⟨rfl, hL⟩
      | cons p' ps => exact .inl (.inr ⟨(List.forall_mem_cons.1 hbefore).2, q, by simpa using hq, hL⟩)
  · rintro ((⟨k, q, hk, hle, hL, hbefore⟩ | ⟨hbefore, q, hq, hL⟩) | ⟨rfl, hL⟩)
    · refine .inl ⟨k + 1, q, hk, hle, hL, fun j r hj hr => ?_⟩
      cases j with
      | zero => exact Option.some.inj hr ▸ h
      | succ j => exact hbefore j r (Nat.lt_of_succ_lt_succ hj) hr
    · exact .inr ⟨List.forall_mem_cons.2 ⟨h, hbefore⟩, q, by simp [List.getLast?_cons, hq], hL⟩
    · exact .inr ⟨by simpa using h, p, rfl, hL⟩

theorem not_isLevelAt_nil (tx L : R) : ¬ IsLevelAt [] tx L := by
  simp [IsLevelAt]

/-- Settles O37: `levelAt` answers at the first point if its time is late enough or no point follows, and else goes on
with the rest, as the relation does. -/
theorem levelAtIsTheFirstPointAtOrAfter : Obligations.LevelAtIsTheFirstPointAtOrAfter := by
  intro p ps tx L
  induction ps generalizing p with
  | nil =>
    rw [levelAt]
    rcases le_or_gt tx p.time with h | h
    · exact isLevelAt_cons_of_le h
    · simp [isLevelAt_cons_of_lt h, not_isLevelAt_nil]
  | cons q qs ih =>
    rw [levelAt]
    rcases le_or_gt tx p.time with h | h
    · rw [if_pos h, isLevelAt_cons_of_le h]
    · rw [if_neg (not_le.2 h), isLevelAt_cons_of_lt h, ← ih q]
      simp

/-! ## Waveforms of held levels -/

/-- The waveform of levels each held for `d` from time `t` on. -/
def heldFrom (d : R) : R → List R → Wave
  | _, [] => []
  | t, L :: Ls => ⟨t, L⟩ :: ⟨t + d, L⟩ :: heldFrom d (t + d) Ls

/-- Segment `n + k` of R55's reading starts at `(n + k) d`. -/
theorem heldFrom_eq_flatMap_zipIdx (d : R) (levels : List R) (n : Nat) :
    heldFrom d (n * d) levels = (levels.zipIdx n).flatMap
      fun lk => [⟨(lk.2 : R) * d, lk.1⟩, ⟨((lk.2 : R) + 1) * d, lk.1⟩] := by
  induction levels generalizing n with
  | nil => rfl
  | cons L Ls ih =>
    have hnext : (n : R) * d + d = ((n + 1 : Nat) : R) * d := by push_cast; ring
    rw [heldFrom, hnext, ih, List.zipIdx_cons, List.flatMap_cons, Nat.cast_succ]
    rfl

theorem heldLevels_eq_heldFrom (d : R) (levels : List R) : heldLevels d levels = heldFrom d 0 levels := by
  have h := heldFrom_eq_flatMap_zipIdx d levels 0
  rw [Nat.cast_zero, zero_mul] at h
  exact h.symm

theorem heldFrom_append (d t : R) (as bs : List R) :
    heldFrom d t (as ++ bs) = heldFrom d t as ++ heldFrom d (t + as.length * d) bs := by
  induction as generalizing t with
  | nil => simp [heldFrom]
  | cons a as ih =>
    have hcursor : t + d + as.length * d = t + (a :: as).length * d := by push_cast [List.length_cons]; ring
    rw [List.cons_append, heldFrom, ih, hcursor]
    rfl

@[simp] theorem heldFrom_length (d t : R) (levels : List R) : (heldFrom d t levels).length = 2 * levels.length := by
  induction levels generalizing t with
  | nil => rfl
  | cons L Ls ih => simp [heldFrom, ih]; ring

theorem heldFrom_level_mem {d t : R} {levels : List R} {p : Point} (h : p ∈ heldFrom d t levels) :
    p.level ∈ levels := by
  induction levels generalizing t with
  | nil => cases h
  | cons L Ls ih =>
    simp only [heldFrom, List.mem_cons] at h
    rcases h with rfl | rfl | h
    · exact List.mem_cons_self
    · exact List.mem_cons_self
    · exact List.mem_cons_of_mem _ (ih h)

/-- The last point ends the last segment. -/
theorem heldFrom_getLast?_time {d t : R} {levels : List R} {p : Point}
    (h : (heldFrom d t levels).getLast? = some p) : p.time = t + levels.length * d := by
  induction levels generalizing t with
  | nil => cases h
  | cons L Ls ih =>
    cases Ls with
    | nil =>
      obtain rfl : (⟨t + d, L⟩ : Point) = p := Option.some.inj h
      simp
    | cons L' Ls =>
      have hlast : (heldFrom d (t + d) (L' :: Ls)).getLast? = some p := by simpa [heldFrom] using h
      rw [ih hlast]
      push_cast [List.length_cons]
      ring

/-- A query inside segment `k` passes the two points of each earlier segment and the start of its own. -/
theorem heldFrom_isLevelAt {d t : R} {levels : List R} {k : Nat} {L tx : R} (hd : 0 < d) (hk : levels[k]? = some L)
    (hlo : t + k * d < tx) (hhi : tx ≤ t + (k + 1) * d) : IsLevelAt (heldFrom d t levels) tx L := by
  induction levels generalizing t k with
  | nil => cases hk
  | cons L' Ls ih =>
    have hstart : t < tx := lt_of_le_of_lt (le_add_of_nonneg_right (by positivity)) hlo
    rw [heldFrom, isLevelAt_cons_of_lt hstart]
    refine .inl ?_
    cases k with
    | zero =>
      obtain rfl : L' = L := Option.some.inj hk
      exact (isLevelAt_cons_of_le (by simpa using hhi)).2 rfl
    | succ k =>
      push_cast at hlo hhi
      have hkd : 0 ≤ (k : R) * d := by positivity
      have hend : t + d < tx := by linarith
      exact (isLevelAt_cons_of_lt hend).2 (.inl (ih hk (by linarith) (by linarith)))

/-- Settles O38: `levelAt` is the relation of R56, and the held levels meet it. -/
theorem levelAtInsideASegment : Obligations.LevelAtInsideASegment := by
  intro d levels k L tx p ps hd hk hlo hhi hwave
  rw [← levelAtIsTheFirstPointAtOrAfter, ← hwave, heldLevels_eq_heldFrom]
  exact heldFrom_isLevelAt hd hk (by simpa using hlo) (by simpa using hhi)

end Sys2Proof.Machine
end

section
/-!
PROOFS about what the ENC commands emit: each holds a list of levels, one segment after another (20_memory.md R55), and
its points fit `WAVEOUT` or the command fails (R53).
-/

namespace Sys2Proof.Machine

open Sys2Proof.Spec

/-! ## Emitters that hold levels -/

/-- An emitter's answer when it was started at time `t` and held each of `levels` for `d`. -/
structure Held (out : EncRegs × Wave) (d t : R) (levels : List R) : Prop where
  points : out.2 = heldFrom d t levels
  cursor : out.1.t = t + levels.length * d

theorem seg_held (L d : R) (r : EncRegs) : Held (seg L d r) d r.t [L] := ⟨rfl, by simp⟩

theorem held_nil (d : R) (r : EncRegs) : Held (r, []) d r.t [] := ⟨rfl, by simp⟩

theorem advance_held (k : Nat) (d : R) (r : EncRegs) : Held (advance k r) d r.t [] := ⟨rfl, by simp⟩

theorem emitThen_held {e f : Emit} {d : R} {r : EncRegs} {as bs : List R} (he : Held (e r) d r.t as)
    (hf : Held (f (e r).1) d (e r).1.t bs) : Held (emitThen e f r) d r.t (as ++ bs) where
  points := by rw [emitThen_apply, he.points, hf.points, he.cursor, heldFrom_append]
  cursor := by
    rw [emitThen_apply, hf.cursor, he.cursor, List.length_append]
    push_cast
    ring

/-- One whole interval at one level. -/
theorem interval_held (L : R) (k : Nat) (r : EncRegs) : Held (emitAll [seg L 1, advance k] r) 1 r.t [L] :=
  emitThen_held (seg_held L 1 r) (emitThen_held (advance_held k 1 _) (held_nil 1 _))

/-- One interval in two halves. -/
theorem halves_held (L L' : R) (k : Nat) (r : EncRegs) :
    Held (emitAll [seg L (1 / 2), seg L' (1 / 2), advance k] r) (1 / 2) r.t [L, L'] :=
  emitThen_held (seg_held L _ r)
    (emitThen_held (seg_held L' _ _) (emitThen_held (advance_held k _ _) (held_nil _ _)))

/-! ## The level lists, bit by bit -/

/-- What a bit does to the carried sign in a scheme where the bits equal to `c` invert it. -/
def turnOn (c b : Bit) : R := if b = c then -1 else 1

@[simp] theorem parityLevel_zero : parityLevel 0 = 1 := rfl

theorem parityLevel_succ (n : Nat) : parityLevel (n + 1) = -parityLevel n := by
  rcases Nat.mod_two_eq_zero_or_one n with h | h
  · have h' : (n + 1) % 2 = 1 := by omega
    simp [parityLevel, h, h']
  · have h' : (n + 1) % 2 = 0 := by omega
    simp [parityLevel, h, h']

theorem parityLevel_ne_zero (n : Nat) : parityLevel n ≠ 0 := by
  rw [parityLevel]
  split <;> simp

theorem abs_parityLevel (n : Nat) : |parityLevel n| = 1 := by
  rw [parityLevel]
  split <;> simp

theorem parityLevel_count_cons (c b : Bit) (bs : List Bit) :
    parityLevel ((b :: bs).count c) = turnOn c b * parityLevel (bs.count c) := by
  by_cases h : b = c
  · subst h
    simp [turnOn, parityLevel_succ]
  · simp [turnOn, h]

theorem nrziLevels_cons (b : Bit) (bs : List Bit) :
    nrziLevels (b :: bs) = [turnOn true b] ++ (nrziLevels bs).map (turnOn true b * ·) := by
  simp [nrziLevels, List.range_succ_eq_map, parityLevel_count_cons]

theorem dmanLevels_cons (b : Bit) (bs : List Bit) :
    dmanLevels (b :: bs) =
      [turnOn false b, -turnOn false b] ++ (dmanLevels bs).map (turnOn false b * ·) := by
  simp [dmanLevels, List.range_succ_eq_map, parityLevel_count_cons, List.flatMap_map,
    List.map_flatMap]

theorem amiLevels_cons (b : Bit) (bs : List Bit) :
    amiLevels (b :: bs) = [if b then 1 else 0] ++ (amiLevels bs).map (turnOn true b * ·) := by
  simp [amiLevels, List.range_succ_eq_map, parityLevel_count_cons]

/-! ## The five line codes

Each is a shape per bit, times a sign the registers carry from bit to bit. -/

/-- `code` sends bit `b` as the levels `shape b` times the sign its registers carry, and multiplies that sign by
`turn b`; `levels` lists the levels of a whole input. -/
structure SignedCode (code : Bit → Emit) (d : R) (sign : EncRegs → R) (shape : Bit → List R) (turn : Bit → R)
    (levels : List Bit → List R) : Prop where
  held : ∀ b r, Held (code b r) d r.t ((shape b).map (sign r * ·))
  turned : ∀ b r, sign (code b r).1 = sign r * turn b
  start : sign initialEncRegs = 1
  nil : levels [] = []
  cons : ∀ b bs, levels (b :: bs) = shape b ++ (levels bs).map (turn b * ·)

section
variable {code : Bit → Emit} {d : R} {sign : EncRegs → R} {shape : Bit → List R} {turn : Bit → R}
  {levels : List Bit → List R}

theorem SignedCode.scanBits_held (h : SignedCode code d sign shape turn levels) (bits : List Bit) (r : EncRegs) :
    Held (scanBits code bits r) d r.t ((levels bits).map (sign r * ·)) := by
  induction bits generalizing r with
  | nil =>
    rw [h.nil]
    exact held_nil d r
  | cons b bs ih =>
    have hrest := ih (code b r).1
    simp only [h.turned, mul_assoc] at hrest
    rw [h.cons, List.map_append, List.map_map]
    exact emitThen_held (h.held b r) hrest

/-- The whole output, from the registers at command start. -/
theorem SignedCode.scanBits_eq_heldLevels (h : SignedCode code d sign shape turn levels) (bits : List Bit) :
    (scanBits code bits initialEncRegs).2 = heldLevels d (levels bits) := by
  have hheld := (h.scanBits_held bits initialEncRegs).points
  simp only [h.start, one_mul, List.map_id'] at hheld
  rw [hheld, heldLevels_eq_heldFrom]
  rfl

end

theorem nrzlBit_signedCode :
    SignedCode nrzlBit 1 (fun _ => 1) (fun b => [if b then 1 else -1]) (fun _ => 1) nrzlLevels where
  held b r := by
    rw [List.map_singleton, one_mul]
    exact interval_held _ 1 r
  turned _ _ := (one_mul _).symm
  start := rfl
  nil := rfl
  cons b bs := by simp [nrzlLevels]

theorem nrziBit_signedCode :
    SignedCode nrziBit 1 (fun r => sgnLevel r.last) (fun b => [turnOn true b]) (turnOn true) nrziLevels where
  held b r := by
    have hlevel : sgnLevel r.last * turnOn true b = sgnLevel (if b then negSgn r.last else r.last) := by
      cases b <;> simp [turnOn]
    rw [List.map_singleton, hlevel]
    unfold nrziBit
    exact interval_held _ 1 _
  turned b r := by cases b <;> simp [nrziBit, turnOn]
  start := rfl
  nil := rfl
  cons := nrziLevels_cons

theorem manBit_signedCode :
    SignedCode manBit (1 / 2) (fun _ => 1) (fun b => if b then [1, -1] else [-1, 1]) (fun _ => 1) manLevels where
  held b r := by cases b <;> simpa [manBit] using halves_held _ _ 1 r
  turned _ _ := (one_mul _).symm
  start := rfl
  nil := rfl
  cons b bs := by simp [manLevels]

theorem dmanBit_signedCode :
    SignedCode dmanBit (1 / 2) (fun r => sgnLevel r.last) (fun b => [turnOn false b, -turnOn false b]) (turnOn false)
      dmanLevels where
  held b r := by
    have hlevel : sgnLevel r.last * turnOn false b = sgnLevel (if b then r.last else negSgn r.last) := by
      cases b <;> simp [turnOn]
    rw [List.map_cons, List.map_singleton, mul_neg, hlevel, ← sgnLevel_negSgn]
    unfold dmanBit
    exact halves_held _ _ 1 _
  turned b r := by cases b <;> simp [dmanBit, turnOn]
  start := rfl
  nil := rfl
  cons := dmanLevels_cons

/-- `pol` is the sign last sent, so the next mark has the opposite one. -/
theorem amiBit_signedCode :
    SignedCode amiBit 1 (fun r => -sgnLevel r.pol) (fun b => [if b then 1 else 0]) (turnOn true) amiLevels where
  held b r := by cases b <;> simpa [amiBit] using interval_held _ 1 { r with pol := _ }
  turned b r := by cases b <;> simp [amiBit, turnOn]
  start := by simp [initialEncRegs, sgnLevel]
  nil := rfl
  cons := amiLevels_cons

/-! ## The substituted codes

Here only the number of intervals counts: a window holds as many levels as it replaces bits. -/

/-- The emitter holds some `n` levels, each for one interval. -/
def Emit.HoldsIntervals (e : Emit) (n : Nat) : Prop :=
  ∀ r, ∃ levels : List R, levels.length = n ∧ Held (e r) 1 r.t levels

theorem seg_holdsIntervals (L : R) : (seg L 1).HoldsIntervals 1 := fun r => ⟨[L], rfl, seg_held L 1 r⟩

theorem advance_holdsIntervals (k : Nat) : (advance k).HoldsIntervals 0 := fun r => ⟨[], rfl, advance_held k 1 r⟩

theorem emitThen_holdsIntervals {e f : Emit} {m n : Nat} (he : e.HoldsIntervals m) (hf : f.HoldsIntervals n) :
    (emitThen e f).HoldsIntervals (m + n) := by
  intro r
  obtain ⟨as, hm, has⟩ := he r
  obtain ⟨bs, hn, hbs⟩ := hf (e r).1
  exact ⟨as ++ bs, by rw [List.length_append, hm, hn], emitThen_held has hbs⟩

theorem emitAll_holdsIntervals {es : List Emit} {ns : List Nat} (h : List.Forall₂ Emit.HoldsIntervals es ns) :
    (emitAll es).HoldsIntervals ns.sum := by
  induction h with
  | nil => exact fun r => ⟨[], rfl, held_nil 1 r⟩
  | cons he _ ih =>
    rw [emitAll_cons, List.sum_cons]
    exact emitThen_holdsIntervals he ih

theorem interval_holdsIntervals (L : R) (k : Nat) : (emitAll [seg L 1, advance k]).HoldsIntervals 1 :=
  fun r => ⟨[L], rfl, interval_held L k r⟩

theorem b8zsWindow_holdsIntervals : b8zsWindow.HoldsIntervals 8 := by
  have hv : emitV.HoldsIntervals 1 := by
    intro r
    unfold emitV
    exact seg_holdsIntervals _ _
  have hb : emitB.HoldsIntervals 1 := by
    intro r
    unfold emitB
    exact seg_holdsIntervals _ _
  exact emitAll_holdsIntervals (ns := [1, 1, 1, 1, 1, 1, 1, 1, 0])
    (by simp [seg_holdsIntervals, advance_holdsIntervals, hv, hb])

theorem b8zsBit_holdsIntervals (b : Bit) : (b8zsBit b).HoldsIntervals 1 := by
  intro r
  unfold b8zsBit
  split
  · exact interval_holdsIntervals _ 1 _
  · exact interval_holdsIntervals _ 1 _

theorem hdb3Window_holdsIntervals : hdb3Window.HoldsIntervals 4 := by
  have hfour (a b c d : R) : (emitAll [seg a 1, seg b 1, seg c 1, seg d 1, advance 4]).HoldsIntervals 4 :=
    emitAll_holdsIntervals (ns := [1, 1, 1, 1, 0]) (by simp [seg_holdsIntervals, advance_holdsIntervals])
  intro r
  unfold hdb3Window
  split
  · exact hfour _ _ _ _ _
  · exact hfour _ _ _ _ _

theorem hdb3Bit_holdsIntervals (b : Bit) : (hdb3Bit b).HoldsIntervals 1 := by
  intro r
  unfold hdb3Bit
  split
  · exact interval_holdsIntervals _ 1 _
  · exact interval_holdsIntervals _ 1 _

/-- The scan holds one level for each bit it has not yet emitted. -/
theorem substitutionScan_holdsIntervals {k : Nat} {window : Emit} {code : Bit → Emit} (hk : 0 < k)
    (hw : window.HoldsIntervals k) (hc : ∀ b, (code b).HoldsIntervals 1) (bits : List Bit) (skip : Nat) :
    (substitutionScan k window code bits skip).HoldsIntervals (bits.length - skip) := by
  induction bits generalizing skip with
  | nil =>
    rw [substitutionScan_nil, List.length_nil, Nat.zero_sub]
    exact fun r => ⟨[], rfl, held_nil 1 r⟩
  | cons b bs ih =>
    cases skip with
    | succ n =>
      rw [List.length_cons, Nat.add_sub_add_right]
      exact ih n
    | zero =>
      rw [substitutionScan]
      split
      case isTrue hzero =>
        have hle : k ≤ (b :: bs).length := by
          rw [zeroWindow, Bool.and_eq_true, decide_eq_true_eq] at hzero
          exact hzero.1
        have hcount : k + (bs.length - (k - 1)) = (b :: bs).length - 0 := by
          rw [List.length_cons] at hle ⊢
          omega
        exact hcount ▸ emitThen_holdsIntervals hw (ih (k - 1))
      case isFalse =>
        have hcount : 1 + (bs.length - 0) = (b :: bs).length - 0 := by
          rw [List.length_cons]
          omega
        exact hcount ▸ emitThen_holdsIntervals (hc b) (ih 0)

theorem substitutionScan_eq_heldLevels {k : Nat} {window : Emit} {code : Bit → Emit} (hk : 0 < k)
    (hw : window.HoldsIntervals k) (hc : ∀ b, (code b).HoldsIntervals 1) (bits : List Bit) :
    ∃ levels : List R, levels.length = bits.length ∧
      (substitutionScan k window code bits 0 initialEncRegs).2 = heldLevels 1 levels := by
  obtain ⟨levels, hlen, hheld⟩ := substitutionScan_holdsIntervals hk hw hc bits 0 initialEncRegs
  exact ⟨levels, hlen, hheld.points.trans (heldLevels_eq_heldFrom 1 levels).symm⟩

end Sys2Proof.Machine
end

section
/-!
PROOFS about whole ENC and DEC commands: the waveform an ENC command leaves, and what a finite `NMAX` does to a command
(20_memory.md R53, 60_exceptions.md R206).
-/

namespace Sys2Proof.Machine

open Sys2Proof.Spec

/-! ## Capacity in the statements' words -/

theorem fits_iff_fitsCapacity (s : State) (n : Nat) : Fits s n ↔ fitsCapacity s.config n = true := by
  rw [Fits, fitsCapacity]
  cases s.config.nmax <;> simp

theorem fits_mono {s : State} {m n : Nat} (h : m ≤ n) (hn : Fits s n) : Fits s m :=
  fun k hk => h.trans (hn k hk)

/-! ## The seven ENC commands -/

/-- The command `i` runs the ENC body `body`, which holds each of `levels` for `d`, `perBit` points per bit. -/
structure Encodes (i : Instr) (perBit : Nat) (body : List Bit → Emit) (d : R) (levels : List Bit → List R) : Prop where
  runs : ∀ s, exec i s = .next (encFrame body s)
  mem : body ∈ encBodies
  output : ∀ bits, (body bits initialEncRegs).2 = heldLevels d (levels bits)
  points : ∀ bits, 2 * (levels bits).length = perBit * bits.length
  unit : perBit * d = 2

section
variable {i : Instr} {perBit : Nat} {body : List Bit → Emit} {d : R} {levels : List Bit → List R}

theorem Encodes.output_length (h : Encodes i perBit body d levels) (bits : List Bit) :
    (body bits initialEncRegs).2.length = perBit * bits.length := by
  rw [h.output, heldLevels_eq_heldFrom, heldFrom_length, h.points]

theorem Encodes.length_le (h : Encodes i perBit body d levels) (bits : List Bit) :
    bits.length ≤ perBit * bits.length := by
  refine Nat.le_mul_of_pos_left _ (Nat.pos_of_ne_zero fun hzero => ?_)
  simpa [hzero] using h.unit

theorem Encodes.unit_pos (h : Encodes i perBit body d levels) : 0 < d := by
  refine pos_of_mul_pos_right ?_ (Nat.cast_nonneg perBit)
  rw [h.unit]
  norm_num

/-- The levels of `n` bits are held for `n` time units. -/
theorem Encodes.duration (h : Encodes i perBit body d levels) (bits : List Bit) :
    (levels bits).length * d = bits.length := by
  have hpoints : (2 : R) * (levels bits).length = perBit * bits.length := by exact_mod_cast h.points bits
  calc ((levels bits).length : R) * d = 2 * (levels bits).length * d / 2 := by ring
    _ = perBit * d * bits.length / 2 := by rw [hpoints]; ring
    _ = bits.length := by rw [h.unit]; ring

theorem Encodes.level_mem (h : Encodes i perBit body d levels) {bits : List Bit} {p : Point}
    (hp : p ∈ (body bits initialEncRegs).2) : p.level ∈ levels bits := by
  rw [h.output, heldLevels_eq_heldFrom] at hp
  exact heldFrom_level_mem hp

theorem Encodes.getLast?_time (h : Encodes i perBit body d levels) {bits : List Bit} {p : Point}
    (hp : (body bits initialEncRegs).2.getLast? = some p) : p.time = bits.length := by
  rw [h.output, heldLevels_eq_heldFrom] at hp
  rw [heldFrom_getLast?_time hp, h.duration, zero_add]

theorem Encodes.ternary (h : Encodes i perBit body d levels) (bits : List Bit) :
    TernaryLevels (body bits initialEncRegs).2 := by
  obtain ⟨_, hspan⟩ := encBody_spansHalfUnits h.mem bits
  exact hspan.ternary

/-- Both capacity checks of an ENC command come down to the one on its points. -/
theorem Encodes.encFrame_eq (h : Encodes i perBit body d levels) (s : State) :
    encFrame body s =
      if fitsCapacity s.config (perBit * s.bitin.length) then afterWave s (body s.bitin initialEncRegs).2
      else afterFailure s 8 := by
  rw [Machine.encFrame_eq, h.output_length]
  by_cases hfits : fitsCapacity s.config (perBit * s.bitin.length) = true
  · rw [if_pos hfits, if_pos ⟨fitsCapacity_mono (h.length_le s.bitin) hfits, hfits⟩]
    rfl
  · rw [if_neg hfits, if_neg fun hboth => hfits hboth.2]
    rfl

theorem Encodes.exec_of_fits (h : Encodes i perBit body d levels) {s : State}
    (hfits : Fits s (perBit * s.bitin.length)) :
    exec i s = .next (afterWave s (body s.bitin initialEncRegs).2) := by
  rw [h.runs, h.encFrame_eq, if_pos ((fits_iff_fitsCapacity s _).1 hfits)]

theorem Encodes.exec_of_not_fits (h : Encodes i perBit body d levels) {s : State}
    (hfits : ¬ Fits s (perBit * s.bitin.length)) : exec i s = .next (afterFailure s 8) := by
  rw [h.runs, h.encFrame_eq, if_neg fun hc => hfits ((fits_iff_fitsCapacity s _).2 hc)]

/-- The levels an ENC command leaves are the code's, whether or not they all fit. -/
theorem Encodes.level_mem_of_exec (h : Encodes i perBit body d levels) {s t : State} (hexec : exec i s = .next t)
    {p : Point} (hp : p ∈ t.waveout) : p.level ∈ levels s.bitin := by
  by_cases hfits : Fits s (perBit * s.bitin.length)
  · obtain rfl := Host.Outcome.next.inj ((h.exec_of_fits hfits).symm.trans hexec)
    exact h.level_mem hp
  · obtain rfl := Host.Outcome.next.inj ((h.exec_of_not_fits hfits).symm.trans hexec)
    cases hp

end

theorem encNrzl_encodes : Encodes .encNrzl 2 (scanBits nrzlBit) 1 nrzlLevels where
  runs _ := rfl
  mem := by simp [encBodies]
  output := nrzlBit_signedCode.scanBits_eq_heldLevels
  points _ := by simp [nrzlLevels]
  unit := by norm_num

theorem encNrzi_encodes : Encodes .encNrzi 2 (scanBits nrziBit) 1 nrziLevels where
  runs _ := rfl
  mem := by simp [encBodies]
  output := nrziBit_signedCode.scanBits_eq_heldLevels
  points _ := by simp [nrziLevels]
  unit := by norm_num

theorem encMan_encodes : Encodes .encMan 4 (scanBits manBit) (1 / 2) manLevels where
  runs _ := rfl
  mem := by simp [encBodies]
  output := manBit_signedCode.scanBits_eq_heldLevels
  points bits := by
    induction bits with
    | nil => rfl
    | cons b bs ih =>
      rw [manBit_signedCode.cons]
      cases b <;> simp [mul_add, ih]
  unit := by norm_num

theorem encDman_encodes : Encodes .encDman 4 (scanBits dmanBit) (1 / 2) dmanLevels where
  runs _ := rfl
  mem := by simp [encBodies]
  output := dmanBit_signedCode.scanBits_eq_heldLevels
  points bits := by
    simp [dmanLevels]
    omega
  unit := by norm_num

theorem encAmi_encodes : Encodes .encAmi 2 (scanBits amiBit) 1 amiLevels where
  runs _ := rfl
  mem := by simp [encBodies]
  output := amiBit_signedCode.scanBits_eq_heldLevels
  points _ := by simp [amiLevels]
  unit := by norm_num

theorem encAmiB8zs_encodes : ∃ levels, Encodes .encAmiB8zs 2 b8zsScan 1 levels := by
  choose levels hlen houtput using
    substitutionScan_eq_heldLevels (by decide : 0 < 8) b8zsWindow_holdsIntervals b8zsBit_holdsIntervals
  exact ⟨levels, fun _ => rfl, by simp [encBodies], houtput, fun bits => by rw [hlen], by norm_num⟩

theorem encAmiHdb3_encodes : ∃ levels, Encodes .encAmiHdb3 2 hdb3Scan 1 levels := by
  choose levels hlen houtput using
    substitutionScan_eq_heldLevels (by decide : 0 < 4) hdb3Window_holdsIntervals hdb3Bit_holdsIntervals
  exact ⟨levels, fun _ => rfl, by simp [encBodies], houtput, fun bits => by rw [hlen], by norm_num⟩

theorem encodes_of_mem_encCommands {i : Instr} {perBit : Nat} (h : (i, perBit) ∈ encCommands) :
    ∃ body d levels, Encodes i perBit body d levels := by
  simp only [encCommands, List.mem_cons, List.not_mem_nil, or_false, Prod.mk.injEq] at h
  rcases h with ⟨rfl, rfl⟩ | ⟨rfl, rfl⟩ | ⟨rfl, rfl⟩ | ⟨rfl, rfl⟩ | ⟨rfl, rfl⟩ | ⟨rfl, rfl⟩ | ⟨rfl, rfl⟩
  · exact ⟨_, _, _, encNrzl_encodes⟩
  · exact ⟨_, _, _, encNrzi_encodes⟩
  · exact ⟨_, _, _, encMan_encodes⟩
  · exact ⟨_, _, _, encDman_encodes⟩
  · exact ⟨_, _, _, encAmi_encodes⟩
  · exact ⟨_, _, encAmiB8zs_encodes⟩
  · exact ⟨_, _, encAmiHdb3_encodes⟩

/-! ## Levels that are never 0 -/

theorem nrzlLevels_ne_zero {bits : List Bit} {L : R} (h : L ∈ nrzlLevels bits) : L ≠ 0 := by
  obtain ⟨b, -, rfl⟩ := List.mem_map.1 h
  cases b <;> simp

theorem nrziLevels_ne_zero {bits : List Bit} {L : R} (h : L ∈ nrziLevels bits) : L ≠ 0 := by
  obtain ⟨k, -, rfl⟩ := List.mem_map.1 h
  exact parityLevel_ne_zero _

theorem manLevels_ne_zero {bits : List Bit} {L : R} (h : L ∈ manLevels bits) : L ≠ 0 := by
  obtain ⟨b, -, hL⟩ := List.mem_flatMap.1 h
  rintro rfl
  cases b <;> simp at hL

theorem dmanLevels_ne_zero {bits : List Bit} {L : R} (h : L ∈ dmanLevels bits) : L ≠ 0 := by
  obtain ⟨k, -, hL⟩ := List.mem_flatMap.1 h
  simp only [List.mem_cons, List.not_mem_nil, or_false] at hL
  rcases hL with rfl | rfl
  · exact parityLevel_ne_zero _
  · exact neg_ne_zero.2 (parityLevel_ne_zero _)

/-- Only the AMI family sends level 0 (41_line_encoder.md R116). -/
theorem exec_enc_level_ne_zero {i : Instr} {s t : State}
    (hi : i = .encNrzl ∨ i = .encNrzi ∨ i = .encMan ∨ i = .encDman) (h : exec i s = .next t) {p : Point}
    (hp : p ∈ t.waveout) : p.level ≠ 0 := by
  rcases hi with rfl | rfl | rfl | rfl
  · exact nrzlLevels_ne_zero (encNrzl_encodes.level_mem_of_exec h hp)
  · exact nrziLevels_ne_zero (encNrzi_encodes.level_mem_of_exec h hp)
  · exact manLevels_ne_zero (encMan_encodes.level_mem_of_exec h hp)
  · exact dmanLevels_ne_zero (encDman_encodes.level_mem_of_exec h hp)

/-- Settles O29: the points are those of levels held for `d`, and `d` times their number is the input length. -/
theorem encoderGeometry : Obligations.EncoderGeometry := by
  intro s i perBit hmem hfits
  obtain ⟨body, d, levels, h⟩ := encodes_of_mem_encCommands hmem
  have hexec := h.exec_of_fits hfits
  exact ⟨_, hexec, rfl, h.output_length s.bitin, fun p hp => h.getLast?_time hp, h.ternary s.bitin,
    fun hi p hp => exec_enc_level_ne_zero hi hexec hp⟩

/-! ## Past a finite `NMAX` -/

/-- Every DEC command is the shared frame with a seed and a decision of its own. -/
theorem exec_dec_eq_decFrame {i : Instr} (h : i ∈ decCommands) :
    ∃ seed interval, ∀ s, exec i s = .next (decFrame seed interval s) := by
  simp only [decCommands, List.mem_cons, List.not_mem_nil, or_false] at h
  rcases h with rfl | rfl | rfl | rfl | rfl
  · exact ⟨noSeed, nrzlInterval, fun _ => rfl⟩
  · exact ⟨nrziSeed, nrziInterval, fun _ => rfl⟩
  · exact ⟨noSeed, manInterval, fun _ => rfl⟩
  · exact ⟨dmanSeed, dmanInterval, fun _ => rfl⟩
  · exact ⟨noSeed, amiInterval, fun _ => rfl⟩

theorem intervalCount_eq_intervalsOf {p q : Point} {ps : Wave} (h : (p :: ps).getLast? = some q) :
    intervalCount p ps = intervalsOf q.time := by
  rw [intervalCount, finalTime_eq p ps q h]
  rfl

theorem decFrame_of_not_fits (seed : (R → R) → Option Sgn) (interval : (R → R) → DecRegs → DecRegs × Bit) {s : State}
    {q : Point} (hlast : s.wavein.getLast? = some q)
    (hfits : ¬ Fits s s.wavein.length ∨ ¬ Fits s (intervalsOf q.time)) :
    decFrame seed interval s = afterFailure s 8 := by
  cases hwave : s.wavein with
  | nil => simp [hwave] at hlast
  | cons p ps =>
    rw [hwave] at hlast
    rw [decFrame_cons_eq seed interval s p ps hwave, intervalCount_eq_intervalsOf hlast, if_neg]
    · rfl
    · rwa [← fits_iff_fitsCapacity, ← fits_iff_fitsCapacity, not_and_or]

theorem runPcm_of_not_fits {a : Args} {s : State} (hbps : 1 ≤ a.bps) (hrange : a.lo < a.hi)
    (hfits : ¬ Fits s (a.bps * s.sampin.length)) : runPcm a s = afterFailure s 8 := by
  have hbits : ¬ fitsCapacity s.config (pcmBits a s.sampin).length = true := by
    rwa [pcmBits_length, mul_comm, ← fits_iff_fitsCapacity]
  rw [runPcm, if_pos (by simp [pcmParametersOk, hbps, hrange])]
  split
  · rw [commitBits_eq _ _ rfl]
    exact if_neg hbits
  · rfl

theorem runDm_of_not_fits {a : Args} {s : State} (hstep : 0 < a.step) (hfits : ¬ Fits s s.sampin.length) :
    runDm a s = afterFailure s 8 := by
  rw [runDm, if_pos hstep, if_neg fun hc => hfits ((fits_iff_fitsCapacity s _).2 hc)]
  rfl

theorem exec_pcm_of_frame {s : State} {f : Frame} (h : s.frame = some f) : exec .pcm s = .next (runPcm f.args s) := by
  rw [exec, execPcm, h]

theorem exec_dm_of_frame {s : State} {f : Frame} (h : s.frame = some f) : exec .dm s = .next (runDm f.args s) := by
  rw [exec, execDm, h]

/-- Settles O53: per family, one of its capacity checks fails, whichever comes first. -/
theorem capacityExceededFails : Obligations.CapacityExceededFails := by
  refine fun s => ⟨fun i perBit hmem hfits => ?_, fun i q hmem hlast hfits => ?_,
    fun f hframe hbps hrange hfits => ?_, fun f hframe hstep hfits => ?_⟩
  · obtain ⟨_, _, _, h⟩ := encodes_of_mem_encCommands hmem
    exact h.exec_of_not_fits hfits
  · obtain ⟨seed, interval, h⟩ := exec_dec_eq_decFrame hmem
    rw [h, decFrame_of_not_fits seed interval hlast hfits]
  · rw [exec_pcm_of_frame hframe, runPcm_of_not_fits hbps hrange hfits]
  · rw [exec_dm_of_frame hframe, runDm_of_not_fits hstep hfits]

end Sys2Proof.Machine
end

section
/-!
PROOFS that the decoders recover what the encoders sent (43_line_decoder.md R157): `LevelAt` reads back the held levels,
so each decoding is a fact about the level list.
-/

namespace Sys2Proof.Machine

open Sys2Proof.Spec

/-! ## A DEC command that fits -/

theorem decFrame_of_fits (seed : (R → R) → Option Sgn) (interval : (R → R) → DecRegs → DecRegs × Bit) {s : State}
    {p q : Point} {ps : Wave} (hwave : s.wavein = p :: ps) (hlast : (p :: ps).getLast? = some q)
    (hin : Fits s s.wavein.length) (hout : Fits s (intervalsOf q.time)) :
    decFrame seed interval s = afterBits s (decodedBits seed interval p ps) := by
  rw [fits_iff_fitsCapacity] at hin hout
  rw [decFrame_cons_eq seed interval s p ps hwave, intervalCount_eq_intervalsOf hlast, if_pos ⟨hin, hout⟩]
  rfl

theorem intervalsOf_natCast (n : Nat) : intervalsOf n = n := by
  have hfloor : ⌊(n : R) + 1 / 2⌋ = n := by
    rw [Int.floor_eq_iff, Int.cast_natCast]
    constructor <;> linarith
  rw [intervalsOf, hfloor, Int.toNat_natCast]

/-! ## Decoding held levels -/

/-- `level` answers level `k` on the whole of segment `k`, its end included. -/
def ReadsLevels (level : R → R) (d : R) (levels : List R) : Prop :=
  ∀ (k : Nat) (L tx : R), levels[k]? = some L → k * d < tx → tx ≤ (k + 1) * d → level tx = L

theorem levelAt_readsLevels {d : R} {levels : List R} {p : Point} {ps : Wave} (hd : 0 < d)
    (h : heldLevels d levels = p :: ps) : ReadsLevels (levelAt p ps) d levels :=
  fun k L tx hk hlo hhi => levelAtInsideASegment d levels k L tx p ps hd hk hlo hhi h

/-- From its registers at command start, a decoder gives `out` for whatever reads back `levels`. -/
def DecodesLevels (seed : (R → R) → Option Sgn) (interval : (R → R) → DecRegs → DecRegs × Bit) (d : R)
    (levels : List R) (out : List Bit) : Prop :=
  ∀ (level : R → R) (r : DecRegs), ReadsLevels level d levels → r.b = 0 → r.prev = seed level →
    decodeIntervals (interval level) out.length r = out

/-- An encoded input, copied to `WAVEIN`, decodes to what the decoder makes of its levels. -/
theorem Encodes.roundTrip {i j : Instr} {perBit : Nat} {body : List Bit → Emit} {d : R} {levels : List Bit → List R}
    {seed : (R → R) → Option Sgn} {interval : (R → R) → DecRegs → DecRegs × Bit} {s : State} {out : List Bit}
    (h : Encodes i perBit body d levels) (hj : ∀ s, exec j s = .next (decFrame seed interval s))
    (hne : s.bitin ≠ []) (hfits : Fits s (perBit * s.bitin.length)) (hlen : out.length = s.bitin.length)
    (hdec : DecodesLevels seed interval d (levels s.bitin) out) :
    ∃ t u, exec i s = .next t ∧ exec j { t with wavein := t.waveout } = .next u ∧ u.bitout = out ∧ u.status = 0 := by
  refine ⟨_, _, h.exec_of_fits hfits, hj _, ?_⟩
  cases hwave : (body s.bitin initialEncRegs).2 with
  | nil =>
    have hzero : perBit * s.bitin.length = 0 := by rw [← h.output_length, hwave]; rfl
    exact absurd (Nat.le_zero.1 (hzero ▸ h.length_le s.bitin)) (mt List.length_eq_zero_iff.1 hne)
  | cons p ps =>
    obtain ⟨q, hlast⟩ : ∃ q, (p :: ps).getLast? = some q := ⟨_, List.getLast?_eq_some_getLast (List.cons_ne_nil p ps)⟩
    have hcount : intervalsOf q.time = s.bitin.length := by
      rw [h.getLast?_time (hwave ▸ hlast), intervalsOf_natCast]
    have hbits : decodedBits seed interval p ps = out := by
      rw [decodedBits, intervalCount_eq_intervalsOf hlast, hcount, ← hlen]
      exact hdec _ _ (levelAt_readsLevels h.unit_pos (h.output s.bitin ▸ hwave)) rfl rfl
    rw [decFrame_of_fits seed interval rfl hlast, hbits]
    · exact ⟨rfl, rfl⟩
    · exact hwave ▸ h.output_length s.bitin ▸ hfits
    · exact hcount ▸ fits_mono (h.length_le s.bitin) hfits

/-! ## Decoders interval by interval -/

/-- What the registers satisfy before each interval decides the bits. -/
theorem decodeIntervals_eq_of_inv {interval : DecRegs → DecRegs × Bit} {out : List Bit} (Inv : Nat → DecRegs → Prop)
    {r : DecRegs} (hstart : Inv 0 r)
    (hstep : ∀ k x r, out[k]? = some x → Inv k r →
      (interval r).2 = x ∧ Inv (k + 1) { (interval r).1 with b := (interval r).1.b + 1 }) :
    decodeIntervals interval out.length r = out := by
  induction out generalizing Inv r with
  | nil => rfl
  | cons x xs ih =>
    obtain ⟨hx, hnext⟩ := hstep 0 x r rfl hstart
    rw [List.length_cons, decodeIntervals, hx]
    exact congrArg (x :: ·) (ih (fun k => Inv (k + 1)) hnext fun k y r hy hr => hstep (k + 1) y r hy hr)

/-- A decoder that carries nothing from interval to interval. -/
theorem decodeIntervals_eq_of_memoryless {interval : DecRegs → DecRegs × Bit} {out : List Bit} {r : DecRegs}
    (hregs : ∀ r, (interval r).1 = r) (hb : r.b = 0)
    (hbit : ∀ (k : Nat) x r, out[k]? = some x → r.b = k → (interval r).2 = x) :
    decodeIntervals interval out.length r = out :=
  decodeIntervals_eq_of_inv (fun k r => r.b = k) hb fun k x r hx hr =>
    ⟨hbit k x r hx hr, congrArg (· + 1) ((congrArg DecRegs.b (hregs r)).trans hr)⟩

/-- A decoder that carries the sign it sampled, seeded with the sign of interval 0. -/
theorem decodeIntervals_eq_of_differential {interval : DecRegs → DecRegs × Bit} {sample : Nat → Sgn} {out : List Bit}
    {r : DecRegs} (hkeeps : ∀ r, (interval r).1.b = r.b) (hcarries : ∀ r, (interval r).1.prev = some (sample r.b))
    (hb : r.b = 0) (hseed : r.prev = some (sample 0))
    (hbit : ∀ (k : Nat) x r, out[k]? = some x → r.b = k → r.prev = some (sample (k - 1)) → (interval r).2 = x) :
    decodeIntervals interval out.length r = out :=
  decodeIntervals_eq_of_inv (fun k r => r.b = k ∧ r.prev = some (sample (k - 1))) ⟨hb, hseed⟩
    fun k x r hx ⟨hr, hprev⟩ =>
      ⟨hbit k x r hx hr hprev, congrArg (· + 1) ((hkeeps r).trans hr), by
        rw [Nat.add_sub_cancel, ← hr]
        exact hcarries r⟩

/-! ## The level lists by index -/

theorem flatMap_pair_getElem? {α β : Type} (f g : α → β) (xs : List α) (k : Nat) :
    (xs.flatMap fun x => [f x, g x])[2 * k]? = xs[k]?.map f ∧
    (xs.flatMap fun x => [f x, g x])[2 * k + 1]? = xs[k]?.map g := by
  induction xs generalizing k with
  | nil => simp
  | cons x xs ih =>
    cases k with
    | zero => exact ⟨rfl, rfl⟩
    | succ k => exact ih k

section
variable {bits : List Bit} {k : Nat} {x : Bit}

theorem nrzlLevels_getElem? (h : bits[k]? = some x) : (nrzlLevels bits)[k]? = some (if x then 1 else -1) := by
  rw [nrzlLevels, List.getElem?_map, h]
  rfl

theorem nrziLevels_getElem? (h : k < bits.length) :
    (nrziLevels bits)[k]? = some (parityLevel ((bits.take (k + 1)).count true)) := by
  simp [nrziLevels, h]

theorem manLevels_getElem? (h : bits[k]? = some x) :
    (manLevels bits)[2 * k]? = some (if x then 1 else -1) ∧
    (manLevels bits)[2 * k + 1]? = some (if x then -1 else 1) := by
  have hpair : manLevels bits = bits.flatMap fun b => [if b then 1 else -1, if b then -1 else 1] := by
    refine congrArg (bits.flatMap ·) (funext fun b => ?_)
    cases b <;> rfl
  rw [hpair, (flatMap_pair_getElem? _ _ bits k).1, (flatMap_pair_getElem? _ _ bits k).2, h]
  exact ⟨rfl, rfl⟩

theorem dmanLevels_getElem? (h : k < bits.length) :
    (dmanLevels bits)[2 * k]? = some (parityLevel ((bits.take (k + 1)).count false)) := by
  rw [dmanLevels, (flatMap_pair_getElem? _ _ _ k).1, List.getElem?_range h]
  rfl

theorem amiLevels_getElem? (h : bits[k]? = some x) :
    (amiLevels bits)[k]? = some (if x then parityLevel ((bits.take k).count true) else 0) := by
  obtain ⟨hk, rfl⟩ := List.getElem?_eq_some_iff.1 h
  simp [amiLevels, hk]

theorem signOf_neg_parityLevel_ne (n : Nat) : signOf (-parityLevel n) ≠ signOf (parityLevel n) := by
  rw [parityLevel]
  split <;> simp [signOf]

/-- Where the bits equal to `c` invert the level, interval `k + 1` has the sign of interval `k` exactly when its bit is
not `c`. -/
theorem signOf_sampled_eq_iff {c : Bit} {level : R → R} {offset : R}
    (hlevel : ∀ k : Nat, k < bits.length → level (k + offset) = parityLevel ((bits.take (k + 1)).count c))
    (h : bits[k + 1]? = some x) : signOf (level ((k + 1 : Nat) + offset)) = signOf (level (k + offset)) ↔ x ≠ c := by
  obtain ⟨hk, -⟩ := List.getElem?_eq_some_iff.1 h
  have hcount : (bits.take (k + 1 + 1)).count c = (bits.take (k + 1)).count c + if x = c then 1 else 0 := by
    rw [List.take_add_one, h, List.count_append]
    simp [List.count_singleton]
  rw [hlevel (k + 1) hk, hlevel k (Nat.lt_of_succ_lt hk), hcount]
  by_cases hx : x = c
  · simp [hx, parityLevel_succ, signOf_neg_parityLevel_ne]
  · simp [hx]

end

/-! ## The five round trips -/

theorem decNrzl_decodesLevels (bits : List Bit) : DecodesLevels noSeed nrzlInterval 1 (nrzlLevels bits) bits := by
  intro level r hreads hb _
  refine decodeIntervals_eq_of_memoryless (fun _ => rfl) hb fun k x r hx hr => ?_
  subst hr
  have hlevel := hreads r.b _ (r.b + 1 / 2) (nrzlLevels_getElem? hx) (by linarith) (by linarith)
  rw [nrzlInterval, hlevel]
  cases x <;> simp

theorem decMan_decodesLevels (bits : List Bit) : DecodesLevels noSeed manInterval (1 / 2) (manLevels bits) bits := by
  intro level r hreads hb _
  refine decodeIntervals_eq_of_memoryless (fun _ => rfl) hb fun k x r hx hr => ?_
  subst hr
  obtain ⟨hfirst, hsecond⟩ := manLevels_getElem? hx
  have h₁ := hreads (2 * r.b) _ (r.b + 1 / 4) hfirst (by push_cast; linarith) (by push_cast; linarith)
  have h₂ := hreads (2 * r.b + 1) _ (r.b + 3 / 4) hsecond (by push_cast; linarith) (by push_cast; linarith)
  rw [manInterval, h₁, h₂]
  cases x <;> norm_num

theorem decAmi_decodesLevels (bits : List Bit) : DecodesLevels noSeed amiInterval 1 (amiLevels bits) bits := by
  intro level r hreads hb _
  refine decodeIntervals_eq_of_memoryless (fun _ => rfl) hb fun k x r hx hr => ?_
  subst hr
  have hlevel := hreads r.b _ (r.b + 1 / 2) (amiLevels_getElem? hx) (by linarith) (by linarith)
  rw [amiInterval, hlevel]
  cases x <;> norm_num [abs_parityLevel]

theorem decNrzi_decodesLevels (b : Bit) (bs : List Bit) :
    DecodesLevels nrziSeed nrziInterval 1 (nrziLevels (b :: bs)) (false :: bs) := by
  intro level r hreads hb hseed
  have hlevel (k : Nat) (hk : k < (b :: bs).length) :
      level (k + 99 / 100) = parityLevel (((b :: bs).take (k + 1)).count true) :=
    hreads k _ _ (nrziLevels_getElem? hk) (by linarith) (by linarith)
  have hquarter : level (1 / 4) = level ((0 : Nat) + 99 / 100) := by
    rw [hlevel 0 (by simp)]
    exact hreads 0 _ _ (nrziLevels_getElem? (by simp)) (by norm_num) (by norm_num)
  refine decodeIntervals_eq_of_differential (sample := fun k => signOf (level (k + 99 / 100))) (fun _ => rfl)
    (fun _ => rfl) hb (by rw [hseed, nrziSeed, hquarter]) fun k x r hx hr hprev => ?_
  rw [nrziInterval, hr, hprev]
  cases k with
  | zero => simpa using hx
  | succ k =>
    simp only [Nat.add_sub_cancel, Option.some.injEq, ne_eq, signOf_sampled_eq_iff hlevel hx]
    cases x <;> rfl

theorem decDman_decodesLevels (b : Bit) (bs : List Bit) :
    DecodesLevels dmanSeed dmanInterval (1 / 2) (dmanLevels (b :: bs)) (true :: bs) := by
  intro level r hreads hb hseed
  have hlevel (k : Nat) (hk : k < (b :: bs).length) :
      level (k + 1 / 2) = parityLevel (((b :: bs).take (k + 1)).count false) :=
    hreads (2 * k) _ _ (dmanLevels_getElem? hk) (by push_cast; linarith) (by push_cast; linarith)
  refine decodeIntervals_eq_of_differential (sample := fun k => signOf (level (k + 1 / 2))) (fun _ => rfl)
    (fun _ => rfl) hb (by simp [hseed, dmanSeed]) fun k x r hx hr hprev => ?_
  rw [dmanInterval, hr, hprev]
  cases k with
  | zero => simpa using hx
  | succ k =>
    simp only [Nat.add_sub_cancel, Option.some.injEq, ne_eq, signOf_sampled_eq_iff hlevel hx]
    cases x <;> rfl

/-- Settles O45: each of the three decoders tells the two shapes of a bit apart. -/
theorem roundTripExact : Obligations.RoundTripExact := by
  intro s i j perBit hmem hne hfits
  simp only [exactPairs, List.mem_cons, List.not_mem_nil, or_false, Prod.mk.injEq] at hmem
  rcases hmem with ⟨rfl, rfl, rfl⟩ | ⟨rfl, rfl, rfl⟩ | ⟨rfl, rfl, rfl⟩
  · exact encNrzl_encodes.roundTrip (fun _ => rfl) hne hfits rfl (decNrzl_decodesLevels s.bitin)
  · exact encMan_encodes.roundTrip (fun _ => rfl) hne hfits rfl (decMan_decodesLevels s.bitin)
  · exact encAmi_encodes.roundTrip (fun _ => rfl) hne hfits rfl (decAmi_decodesLevels s.bitin)

/-- Settles O46: a differential decoder compares interval 0 with itself, whatever bit 0 was. -/
theorem roundTripLosesBitZero : Obligations.RoundTripLosesBitZero := by
  intro s b bs hbits
  have hne : s.bitin ≠ [] := hbits ▸ List.cons_ne_nil b bs
  have hlen (x : Bit) : (x :: bs).length = s.bitin.length := by rw [hbits]; rfl
  exact ⟨fun hfits => encNrzi_encodes.roundTrip (fun _ => rfl) hne hfits (hlen false)
      (hbits ▸ decNrzi_decodesLevels b bs),
    fun hfits => encDman_encodes.roundTrip (fun _ => rfl) hne hfits (hlen true) (hbits ▸ decDman_decodesLevels b bs)⟩

end Sys2Proof.Machine
end

section
/-!
PROOFS about the encoding (30_encoding.md): the fields of the control word, its decoder and encoder, the command a
step runs, and the assembler's line for a bare mnemonic.
-/

namespace Sys2Proof

/-! ## The fields of the control word -/

@[simp] theorem opField_toNat (w : Word) : (opField w).toNat = w.toNat % 16 := by
  simp [opField, BitVec.extractLsb'_toNat]

@[simp] theorem schemeField_toNat (w : Word) : (schemeField w).toNat = w.toNat / 16 % 8 := by
  simp [schemeField, BitVec.extractLsb'_toNat, Nat.shiftRight_eq_div_pow]

@[simp] theorem scrField_toNat (w : Word) : (scrField w).toNat = w.toNat / 128 % 4 := by
  simp [scrField, BitVec.extractLsb'_toNat, Nat.shiftRight_eq_div_pow]

/-- The top field needs no remainder: a word has nothing above it. -/
@[simp] theorem zeroField_toNat (w : Word) : (zeroField w).toNat = w.toNat / 512 := by
  have hw : w.toNat / 512 < 128 := by omega
  simpa [zeroField, BitVec.extractLsb'_toNat, Nat.shiftRight_eq_div_pow] using hw

/-- Settles O1: each field is a quotient and a remainder of the word's number. -/
theorem controlWordFields : Obligations.ControlWordFields := by
  intro w
  simp only [zeroField_toNat, scrField_toNat, schemeField_toNat, opField_toNat]
  omega

/-- A control word is determined by its four fields. -/
theorem word_eq_of_fields {v w : Word} (hzero : zeroField v = zeroField w) (hop : opField v = opField w)
    (hscheme : schemeField v = schemeField w) (hscr : scrField v = scrField w) : v = w := by
  apply BitVec.eq_of_toNat_eq
  rw [controlWordFields v, controlWordFields w, hzero, hop, hscheme, hscr]

/-! ## The codes of the fields (30_encoding.md R72, R73) -/

theorem opOfCode_inj {c d : BitVec 4} {op : Op} (hc : opOfCode c = some op) (hd : opOfCode d = some op) : c = d := by
  revert c d
  cases op <;> decide

theorem schemeOfCode_inj {c d : BitVec 3} {scheme : Scheme} (hc : schemeOfCode c = some scheme)
    (hd : schemeOfCode d = some scheme) : c = d := by
  revert c d
  cases scheme <;> decide

theorem scrambleOfCode_inj {c d : BitVec 2} {scr : Scramble} (hc : scrambleOfCode c = some scr)
    (hd : scrambleOfCode d = some scr) : c = d := by
  revert c d
  cases scr <;> decide

theorem opOfCode_eq_none {c : BitVec 4} : opOfCode c = none → c.toNat = 0 ∨ 6 ≤ c.toNat := by
  revert c
  decide

theorem schemeOfCode_eq_none {c : BitVec 3} : schemeOfCode c = none → 5 ≤ c.toNat := by
  revert c
  decide

theorem scrambleOfCode_eq_none {c : BitVec 2} : scrambleOfCode c = none → c.toNat = 3 := by
  revert c
  decide

/-! ## The decoder's outcomes -/

/-- What a word that decodes to a command looks like. -/
theorem decode_eq_ok {w : Word} {i : Instr} (h : decode w = .ok i) :
    zeroField w = 0 ∧ ∃ op scheme scr, opOfCode (opField w) = some op ∧ schemeOfCode (schemeField w) = some scheme ∧
      scrambleOfCode (scrField w) = some scr ∧ commandOf op scheme scr = .ok i := by
  rw [decode] at h
  split_ifs at h with hzero
  split at h
  case h_1 => cases h
  case h_2 op hop =>
    split at h
    case h_1 scheme scr hscheme hscr => exact ⟨not_not.mp hzero, op, scheme, scr, hop, hscheme, hscr, h⟩
    case h_2 => cases h

/-- The tests 1 to 4 of R78, one of which fires on a rejected word. -/
theorem decode_eq_error {w : Word} {r : Reject} (h : decode w = .error r) :
    zeroField w ≠ 0 ∨ opOfCode (opField w) = none ∨
    (schemeOfCode (schemeField w) = none ∨ scrambleOfCode (scrField w) = none) ∨
    ∃ op scheme scr, opOfCode (opField w) = some op ∧ schemeOfCode (schemeField w) = some scheme ∧
      scrambleOfCode (scrField w) = some scr ∧ commandOf op scheme scr = .error r := by
  rw [decode] at h
  split_ifs at h with hzero
  case pos => exact .inl hzero
  split at h
  case h_1 hop => exact .inr (.inl hop)
  case h_2 op hop =>
    split at h
    case h_1 scheme scr hscheme hscr => exact .inr (.inr (.inr ⟨op, scheme, scr, hop, hscheme, hscr, h⟩))
    case h_2 hdefined =>
      refine .inr (.inr (.inl (or_iff_not_imp_left.mpr fun hscheme => ?_)))
      obtain ⟨scheme, hscheme⟩ := Option.ne_none_iff_exists'.mp hscheme
      exact Option.eq_none_iff_forall_ne_some.mpr fun scr hscr => hdefined scheme scr hscheme hscr

theorem withoutSelector_eq_ok {scheme : Scheme} {scr : Scramble} {i j : Instr}
    (h : withoutSelector scheme scr i = .ok j) : scheme = .nrzl ∧ scr = .plain ∧ i = j := by
  rw [withoutSelector] at h
  split_ifs at h with hzero
  exact ⟨hzero.1, hzero.2, Except.ok.inj h⟩

/-- Only the commands without a selector are rejected on defined fields. -/
theorem commandOf_eq_error {op : Op} {scheme : Scheme} {scr : Scramble} {r : Reject}
    (h : commandOf op scheme scr = .error r) :
    op ≠ .enc ∧ op ≠ .dec ∧ (scheme ≠ .nrzl ∨ scr ≠ .plain) := by
  have hselector {i : Instr} (hi : withoutSelector scheme scr i = .error r) : scheme ≠ .nrzl ∨ scr ≠ .plain := by
    rw [withoutSelector] at hi
    split_ifs at hi with hzero
    exact not_and_or.mp hzero
  cases op with
  | enc | dec => cases h
  | analyze | pcm | dm => exact ⟨by decide, by decide, hselector h⟩

/-! ## Decoding and encoding -/

theorem decode_encode (i : Instr) : decode (encode i) = .ok i := by
  cases i <;> rfl

/-- The tables of R74 and R75 against the field codes: a command's word carries the codes of the fields the dispatch
gave the command for. -/
theorem encode_fields {op : Op} {scheme : Scheme} {scr : Scramble} {i : Instr} (h : commandOf op scheme scr = .ok i) :
    zeroField (encode i) = 0 ∧ opOfCode (opField (encode i)) = some op ∧
      schemeOfCode (schemeField (encode i)) = some scheme ∧ scrambleOfCode (scrField (encode i)) = some scr := by
  cases op with
  | enc | dec =>
    obtain rfl := Except.ok.inj h
    cases scheme <;> cases scr <;> exact ⟨rfl, rfl, rfl, rfl⟩
  | analyze | pcm | dm =>
    obtain ⟨rfl, rfl, rfl⟩ := withoutSelector_eq_ok h
    exact ⟨rfl, rfl, rfl, rfl⟩

theorem encode_of_decode {w : Word} {i : Instr} (h : decode w = .ok i) : encode i = w := by
  obtain ⟨hzero, op, scheme, scr, hop, hscheme, hscr, hcommand⟩ := decode_eq_ok h
  obtain ⟨hzero', hop', hscheme', hscr'⟩ := encode_fields hcommand
  exact word_eq_of_fields (hzero'.trans hzero.symm) (opOfCode_inj hop' hop) (schemeOfCode_inj hscheme' hscheme)
    (scrambleOfCode_inj hscr' hscr)

/-- R77's arithmetic condition, read on the fields. -/
theorem reservedWord_iff (w : Word) :
    reservedWord w = true ↔
      (zeroField w).toNat ≠ 0 ∨ (opField w).toNat = 0 ∨ 6 ≤ (opField w).toNat ∨ 5 ≤ (schemeField w).toNat ∨
        (scrField w).toNat = 3 ∨
        3 ≤ (opField w).toNat ∧ ((schemeField w).toNat ≠ 0 ∨ (scrField w).toNat ≠ 0) := by
  simp [reservedWord, or_assoc]

theorem three_le_of_opOfCode {c : BitVec 4} {op : Op} (h : opOfCode c = some op) (henc : op ≠ .enc)
    (hdec : op ≠ .dec) : 3 ≤ c.toNat := by
  cases op with
  | enc => exact absurd rfl henc
  | dec => exact absurd rfl hdec
  | analyze => simp [opOfCode_inj h (d := 3) rfl]
  | pcm => simp [opOfCode_inj h (d := 4) rfl]
  | dm => simp [opOfCode_inj h (d := 5) rfl]

theorem schemeOfCode_zero {c : BitVec 3} {scheme : Scheme} (h : schemeOfCode c = some scheme) (hc : c.toNat = 0) :
    scheme = .nrzl := by
  rw [schemeOfCode, hc] at h
  exact (Option.some.inj h).symm

theorem scrambleOfCode_zero {c : BitVec 2} {scr : Scramble} (h : scrambleOfCode c = some scr) (hc : c.toNat = 0) :
    scr = .plain := by
  rw [scrambleOfCode, hc] at h
  exact (Option.some.inj h).symm

theorem reservedWord_of_decode_eq_error {w : Word} {r : Reject} (h : decode w = .error r) : reservedWord w = true := by
  rw [reservedWord_iff]
  rcases decode_eq_error h with hzero | hop | (hscheme | hscr) | ⟨op, scheme, scr, hop, hscheme, hscr, hcommand⟩
  · exact .inl fun h0 => hzero (BitVec.eq_of_toNat_eq h0)
  · have := opOfCode_eq_none hop
    omega
  · have := schemeOfCode_eq_none hscheme
    omega
  · have := scrambleOfCode_eq_none hscr
    omega
  · obtain ⟨henc, hdec, hselector⟩ := commandOf_eq_error hcommand
    have hge := three_le_of_opOfCode hop henc hdec
    have hcodes := hselector.imp (mt (schemeOfCode_zero hscheme)) (mt (scrambleOfCode_zero hscr))
    omega

/-- A word is rejected exactly when R77 calls it reserved: a word that is not rejected is a command's word, and those
are all defined. -/
theorem reservedWord_iff_decode_eq_error (w : Word) : reservedWord w = true ↔ ∃ r, decode w = .error r := by
  constructor
  · intro hreserved
    cases h : decode w with
    | error r => exact ⟨r, rfl⟩
    | ok i =>
      have hdefined : reservedWord (encode i) = false := Laws.EncodesDefinedWord.all i
      rw [encode_of_decode h, hreserved] at hdefined
      cases hdefined
  · rintro ⟨r, h⟩
    exact reservedWord_of_decode_eq_error h

/-- Settles O3: a word that decodes has the fields of its command's word, and a word has nothing but its fields. -/
theorem decodeInvertsEncode : Obligations.DecodeInvertsEncode :=
  ⟨decode_encode, fun _ _ => encode_of_decode, reservedWord_iff_decode_eq_error⟩

/-- Settles O2: the eight words are their commands' table words, and the last one's `SCR` is the reserved code 3. -/
theorem tableWordsDecode : Obligations.TableWordsDecode :=
  ⟨decode_encode .pcm, decode_encode .dm, decode_encode .encNrzi, decode_encode .encAmiB8zs, decode_encode .decDman,
    decode_encode .analyze, decode_encode .encManB8zs, decode_encode .decAmiHdb3, rfl⟩

end Sys2Proof

namespace Sys2Proof.Machine

/-! ## The step of a presented command -/

theorem step_of_frame {s : State} {f : Frame} (h : s.frame = some f) : step s = runCommand f s := by
  rw [step, h]

theorem runCommand_of_decode_ok {f : Frame} {i : Instr} (h : decode f.cw = .ok i) (s : State) :
    runCommand f s = exec i s := by
  rw [runCommand, h]

/-- Settles O5: a step with a frame is its command, and a command is `exec` of what its word decodes to. -/
theorem stepRunsPresentedCommand : Obligations.StepRunsPresentedCommand :=
  fun s _ _ hframe hdecode => (step_of_frame hframe).trans (runCommand_of_decode_ok hdecode s)

/-! ## A bare mnemonic on a line -/

/-- A character that neither ends a line's first word nor starts a comment. -/
def isWordChar (ch : Char) : Bool := !ch.isWhitespace && ch != ';'

theorem isWordChar_iff (ch : Char) : isWordChar ch = true ↔ ch.isWhitespace = false ∧ ch ≠ ';' := by
  simp [isWordChar]

theorem dropWhile_eq_self_of_forall {α : Type} {p : α → Bool} {l : List α} (h : ∀ a ∈ l, p a = false) :
    l.dropWhile p = l :=
  List.dropWhile_eq_self_iff.mpr fun hpos => by simp [h _ (List.getElem_mem hpos)]

theorem trimText_eq_self {text : List Char} (h : ∀ ch ∈ text, ch.isWhitespace = false) : trimText text = text := by
  rw [trimText, dropWhile_eq_self_of_forall h,
    dropWhile_eq_self_of_forall fun ch hch => h ch (List.mem_reverse.mp hch), List.reverse_reverse]

/-- A line that is one word, without operands. -/
theorem assembleLine_of_word {word : List Char} (hne : word ≠ []) (h : word.all isWordChar = true) :
    assembleLine word = (assembleWords word []).map some := by
  simp only [List.all_eq_true, isWordChar_iff] at h
  have hspace : ∀ ch ∈ word, ch.isWhitespace = false := fun ch hch => (h ch hch).1
  have hcomment : withoutComment word = word :=
    List.takeWhile_eq_self_iff.mpr fun ch hch => by simpa using (h ch hch).2
  have htake : word.takeWhile (fun ch => !ch.isWhitespace) = word :=
    List.takeWhile_eq_self_iff.mpr fun ch hch => by simp [hspace ch hch]
  have hdrop : word.dropWhile (fun ch => !ch.isWhitespace) = [] :=
    List.dropWhile_eq_nil_iff.mpr fun ch hch => by simp [hspace ch hch]
  rw [assembleLine, hcomment, trimText_eq_self hspace, if_neg (by simpa using hne), htake, hdrop]
  rfl

/-- A command's mnemonic is none of the host's own words `LOAD.B` to `.cw`, which `assembleWords` tries first. -/
theorem assembleWords_of_commandNamed {word : List Char} {i : Instr} (h : commandNamed word = some i) :
    assembleWords word [] = .ok (.issue { cw := encode i, args := assemblerDefaults }) := by
  have hne {directive : String} (hd : commandNamed directive.toList = none) : word ≠ directive.toList := by
    rintro rfl
    cases hd.symm.trans h
  rw [assembleWords]
  iterate 7 rw [if_neg (hne rfl)]
  rw [h]
  rfl

theorem mnemonicOf_isWordChar (i : Instr) : (mnemonicOf i).toList.all isWordChar = true := by
  cases i <;> rfl

theorem mnemonicOf_ne_nil (i : Instr) : (mnemonicOf i).toList ≠ [] := by
  cases i <;> decide

/-- The mnemonics are distinct, and every command is in the assembler's list. -/
theorem commandNamed_mnemonicOf (i : Instr) : commandNamed (mnemonicOf i).toList = some i := by
  cases i <;> rfl

/-- DCP's defaults as 30_encoding.md R82 writes them. -/
theorem assemblerDefaults_eq : assemblerDefaults = { bps := 8, lo := -1, hi := 1, step := 1 / 10 } := by
  rw [assemblerDefaults, Rat.mkRat_eq_div]
  norm_num

/-- Settles O58: a bare mnemonic is one word, and names its command. -/
theorem assemblerFillsDefaults : Obligations.AssemblerFillsDefaults := by
  intro i
  rw [assembleLine_of_word (mnemonicOf_ne_nil i) (mnemonicOf_isWordChar i),
    assembleWords_of_commandNamed (commandNamed_mnemonicOf i), assemblerDefaults_eq]
  rfl

end Sys2Proof.Machine
end

section
/-!
PROOFS about the front ends (40_bitsource.md): the code of each sample brackets it (R90), and the running approximation
is the first sample plus `step` times the balance of the bits emitted (R93).
-/

namespace Sys2Proof.Machine

open Sys2Proof.Spec

theorem fits_zero (s : State) : Fits s 0 := fun m _ => Nat.zero_le m

theorem commitBits_of_fits {out : List Bit} {s : State} (w : Work) (h : Fits s out.length) :
    commitBits out (loadWork w (clearResults s)) = afterBits s out := by
  rw [commitBits_eq _ _ rfl, loadWork_config, clearResults_config, if_pos ((fits_iff_fitsCapacity s _).1 h)]
  rfl

/-! ## `PCM` -/

theorem pcmParametersOk_iff (a : Args) : pcmParametersOk a = true ↔ 1 ≤ a.bps ∧ a.lo < a.hi := by
  simp [pcmParametersOk]

theorem runPcm_of_illegal {a : Args} (s : State) (h : a.bps < 1 ∨ a.hi ≤ a.lo) : runPcm a s = afterFailure s 7 := by
  rw [runPcm, if_neg]
  · rfl
  · rwa [pcmParametersOk_iff, not_and_or, not_le, not_lt]

theorem runPcm_of_fits {a : Args} {s : State} (hbps : 1 ≤ a.bps) (hrange : a.lo < a.hi)
    (hin : Fits s s.sampin.length) (hout : Fits s (a.bps * s.sampin.length)) :
    runPcm a s = afterBits s (pcmBits a s.sampin) := by
  rw [runPcm, if_pos ((pcmParametersOk_iff a).2 ⟨hbps, hrange⟩), if_pos ((fits_iff_fitsCapacity s _).1 hin)]
  exact commitBits_of_fits _ (by rwa [pcmBits_length, mul_comm])

theorem pcmBits_cons (a : Args) (x : R) (xs : List R) :
    pcmBits a (x :: xs) = bitsMsbFirst a.bps (quantize a x).q ++ pcmBits a xs := rfl

/-- The code of sample `k` is the `k`th group of `bps` bits. -/
theorem pcmBits_getElem? {a : Args} {xs : List R} {k : Nat} {x : R} (hx : xs[k]? = some x) {j : Nat}
    (hj : j < a.bps) :
    (pcmBits a xs)[k * a.bps + j]? = some ((quantize a x).q.testBit (a.bps - 1 - j)) := by
  induction xs generalizing k with
  | nil => simp at hx
  | cons y ys ih =>
    rw [pcmBits_cons]
    cases k with
    | zero =>
      obtain rfl : y = x := by simpa using hx
      rw [Nat.zero_mul, Nat.zero_add, List.getElem?_append_left (by simpa using hj), bitsMsbFirst_getElem? _ _ _ hj]
    | succ k =>
      have hindex : (k + 1) * a.bps + j = a.bps + (k * a.bps + j) := by ring
      rw [hindex, List.getElem?_append_right (by simp), bitsMsbFirst_length, Nat.add_sub_cancel_left]
      exact ih (by simpa using hx)

/-- The clamped sample's distance from `lo` in quantization steps: the argument of R90's `floor`. -/
def pcmPosition (a : Args) (x : R) : R :=
  (min (max x a.lo) a.hi - a.lo) / (a.hi - a.lo) * (2 ^ a.bps - 1)

/-- R90's code, without the model's detour through `Int`. -/
theorem quantize_q (a : Args) (x : R) : (quantize a x).q = ⌊pcmPosition a x⌋₊ := by
  have hM : ((2 ^ a.bps - 1 : Nat) : R) = 2 ^ a.bps - 1 := by
    rw [Nat.cast_sub Nat.one_le_two_pow]
    norm_num
  rw [pcmPosition, ← hM, ← Int.floor_toNat]
  rfl

theorem pcmSteps_pos {bps : Nat} (h : 1 ≤ bps) : (0 : R) < 2 ^ bps - 1 :=
  sub_pos.2 (one_lt_pow₀ one_lt_two (Nat.one_le_iff_ne_zero.1 h))

section
variable {a : Args} (hbps : 1 ≤ a.bps) (hrange : a.lo < a.hi) (x : R)
include hbps hrange

/-- The clamped sample, recovered from its position. -/
theorem lo_add_pcmPosition :
    a.lo + pcmPosition a x * (a.hi - a.lo) / (2 ^ a.bps - 1) = min (max x a.lo) a.hi := by
  have hM := (pcmSteps_pos hbps).ne'
  have hwidth := (sub_pos.2 hrange).ne'
  rw [pcmPosition]
  field_simp
  ring

theorem pcmPosition_nonneg : 0 ≤ pcmPosition a x := by
  have hclamp : a.lo ≤ min (max x a.lo) a.hi := le_min (le_max_right _ _) hrange.le
  exact mul_nonneg (div_nonneg (sub_nonneg.2 hclamp) (sub_pos.2 hrange).le) (pcmSteps_pos hbps).le

theorem pcmPosition_le : pcmPosition a x ≤ 2 ^ a.bps - 1 := by
  have hclamp : min (max x a.lo) a.hi - a.lo ≤ a.hi - a.lo := sub_le_sub_right (min_le_right _ _) _
  exact mul_le_of_le_one_left (pcmSteps_pos hbps).le ((div_le_one (sub_pos.2 hrange)).2 hclamp)

theorem quantize_q_lt : (quantize a x).q < 2 ^ a.bps := by
  rw [quantize_q, Nat.floor_lt (pcmPosition_nonneg hbps hrange x), Nat.cast_pow, Nat.cast_two]
  linarith [pcmPosition_le hbps hrange x]

theorem quantize_q_lower :
    a.lo + (quantize a x).q * (a.hi - a.lo) / (2 ^ a.bps - 1) ≤ min (max x a.lo) a.hi := by
  have hM := pcmSteps_pos hbps
  have hwidth := sub_pos.2 hrange
  rw [← lo_add_pcmPosition hbps hrange x, quantize_q]
  gcongr
  exact Nat.floor_le (pcmPosition_nonneg hbps hrange x)

theorem quantize_q_upper :
    min (max x a.lo) a.hi < a.lo + ((quantize a x).q + 1) * (a.hi - a.lo) / (2 ^ a.bps - 1) := by
  have hM := pcmSteps_pos hbps
  have hwidth := sub_pos.2 hrange
  rw [← lo_add_pcmPosition hbps hrange x, quantize_q]
  gcongr
  exact Nat.lt_floor_add_one _

end

/-- Settles O21: the code is the floor of the clamped sample's position, which lies between 0 and `M = 2^bps - 1`. -/
theorem pcmQuantizes : Obligations.PcmQuantizes := by
  refine ⟨decode_encode .pcm, fun s f hframe => ⟨fun hillegal => ?_, fun hbps hrange hin hout => ?_⟩⟩
  · rw [exec_pcm_of_frame hframe, runPcm_of_illegal s hillegal]
  · refine ⟨pcmBits f.args s.sampin, ?_, ?_, fun k x hx => ⟨(quantize f.args x).q, quantize_q_lt hbps hrange x,
      quantize_q_lower hbps hrange x, quantize_q_upper hbps hrange x, fun j hj => pcmBits_getElem? hx hj⟩⟩
    · rw [exec_pcm_of_frame hframe, runPcm_of_fits hbps hrange hin hout]
    · rw [pcmBits_length, mul_comm]

/-! ## `DM` -/

theorem runDm_of_illegal {a : Args} (s : State) (h : a.step ≤ 0) : runDm a s = afterFailure s 7 := by
  rw [runDm, if_neg h.not_gt]
  rfl

theorem runDm_of_empty {a : Args} {s : State} (hstep : 0 < a.step) (hsamp : s.sampin = []) :
    runDm a s = afterFailure s 2 := by
  rw [runDm, if_pos hstep, hsamp, List.length_nil, if_pos (fitsCapacity_zero s.config)]
  rfl

theorem runDm_of_fits {a : Args} {s : State} {x₀ : R} {rest : List R} (hstep : 0 < a.step)
    (hsamp : s.sampin = x₀ :: rest) (hfits : Fits s s.sampin.length) :
    runDm a s = afterBits s (dmBits a.step { approx := x₀ } rest) := by
  rw [runDm, if_pos hstep, if_pos ((fits_iff_fitsCapacity s _).1 hfits), hsamp]
  refine commitBits_of_fits _ (fits_mono ?_ hfits)
  rw [dmBits_length, hsamp]
  exact Nat.le_succ _

/-- Ones minus zeros: how many steps the approximation has moved (R93). -/
def bitBalance (bits : List Bit) : R := (bits.count true : R) - (bits.count false : R)

theorem bitBalance_cons (b : Bit) (bits : List Bit) :
    bitBalance (b :: bits) = (if b then 1 else -1) + bitBalance bits := by
  cases b
  case false => simp [bitBalance]; ring
  case true => simp [bitBalance]; ring

theorem dmSample_bit_iff (step : R) (r : DmRegs) (x : R) : (dmSample step r x).2 = true ↔ r.approx ≤ x := by
  rw [dmSample]
  split
  case isTrue h => simpa using h
  case isFalse h => simpa using h

theorem dmSample_approx (step : R) (r : DmRegs) (x : R) :
    (dmSample step r x).1.approx = r.approx + step * (if (dmSample step r x).2 then 1 else -1) := by
  rw [dmSample]
  split
  · simp
  · simp [sub_eq_add_neg]

/-- Bit `k` compares sample `k` with the approximation `r.approx` moved by the bits before. -/
theorem dmBits_getElem?_iff {step : R} {r : DmRegs} {xs : List R} {k : Nat} {x : R} (hx : xs[k]? = some x) :
    (dmBits step r xs)[k]? = some true ↔ r.approx + step * bitBalance ((dmBits step r xs).take k) ≤ x := by
  induction xs generalizing r k with
  | nil => simp at hx
  | cons y ys ih =>
    cases k with
    | zero =>
      obtain rfl : y = x := by simpa using hx
      simp [dmBits, dmSample_bit_iff, bitBalance]
    | succ k =>
      rw [dmBits, List.getElem?_cons_succ, List.take_succ_cons, bitBalance_cons, mul_add, ← add_assoc,
        ← dmSample_approx]
      exact ih (by simpa using hx)

/-- Settles O22: the parameter check comes first, and the approximation follows the balance of the bits. -/
theorem dmTracksTheInput : Obligations.DmTracksTheInput := by
  refine ⟨decode_encode .dm, fun s f hframe => ⟨fun hillegal => ?_, fun hstep hsamp => ?_,
    fun x₀ rest hstep hsamp hfits => ⟨dmBits f.args.step { approx := x₀ } rest, ?_, dmBits_length _ _ _,
      fun k x hx => dmBits_getElem?_iff hx⟩⟩⟩
  · rw [exec_dm_of_frame hframe, runDm_of_illegal s hillegal]
  · rw [exec_dm_of_frame hframe, runDm_of_empty hstep hsamp]
  · rw [exec_dm_of_frame hframe, runDm_of_fits hstep hsamp hfits]

/-! ## No bit to emit -/

/-- Settles O23: an empty input fits any `NMAX`, and a command that fits emits the bits of no sample. -/
theorem frontEndsWithNoBits : Obligations.FrontEndsWithNoBits := by
  refine fun s f hframe => ⟨fun hbps hrange hsamp => ?_, fun x hstep hsamp hfits => ?_⟩
  · have hin : Fits s s.sampin.length := by simpa [hsamp] using fits_zero s
    have hout : Fits s (f.args.bps * s.sampin.length) := by simpa [hsamp] using fits_zero s
    rw [exec_pcm_of_frame hframe, runPcm_of_fits hbps hrange hin hout, hsamp]
    rfl
  · rw [exec_dm_of_frame hframe, runDm_of_fits hstep hsamp (by rwa [hsamp])]
    rfl

end Sys2Proof.Machine
end

section
/-!
PROOFS about the line encoders (41_line_encoder.md): an ENC command whose points fit leaves the levels of its code, and
with no bits it leaves no points.
-/

namespace Sys2Proof.Machine

open Sys2Proof.Spec

section
variable {i : Instr} {perBit : Nat} {body : List Bit → Emit} {d : R} {levels : List Bit → List R}

theorem Encodes.exec_eq_heldLevels (h : Encodes i perBit body d levels) {s : State}
    (hfits : Fits s (perBit * s.bitin.length)) :
    exec i s = .next (afterWave s (heldLevels d (levels s.bitin))) := by
  rw [h.exec_of_fits hfits, h.output]

theorem Encodes.output_nil (h : Encodes i perBit body d levels) : (body [] initialEncRegs).2 = [] :=
  List.eq_nil_of_length_eq_zero (h.output_length [])

end

/-- Settles O24: no sign is carried from bit to bit. -/
theorem encNrzlResult : Obligations.EncNrzlResult :=
  ⟨decode_encode .encNrzl, fun _ => encNrzl_encodes.exec_eq_heldLevels⟩

/-- Settles O25: the register `last` is the parity of the ones scanned, the current bit included. -/
theorem encNrziResult : Obligations.EncNrziResult :=
  ⟨decode_encode .encNrzi, fun _ => encNrzi_encodes.exec_eq_heldLevels⟩

/-- Settles O26: no sign is carried from bit to bit, and each bit is two half units. -/
theorem encManResult : Obligations.EncManResult :=
  ⟨decode_encode .encMan, fun _ => encMan_encodes.exec_eq_heldLevels⟩

/-- Settles O27: the register `last` is the parity of the zeros scanned, the current bit included. -/
theorem encDmanResult : Obligations.EncDmanResult :=
  ⟨decode_encode .encDman, fun _ => encDman_encodes.exec_eq_heldLevels⟩

/-- Settles O28: the register `pol` is the polarity of the last 1 sent, so the next 1 has the opposite one. -/
theorem encAmiResult : Obligations.EncAmiResult :=
  ⟨decode_encode .encAmi, fun _ => encAmi_encodes.exec_eq_heldLevels⟩

/-- Settles O30: no bits make no points, and no points fit any `NMAX`. -/
theorem encodingNothing : Obligations.EncodingNothing := by
  intro s i perBit hmem hbits
  obtain ⟨body, d, levels, h⟩ := encodes_of_mem_encCommands hmem
  have hfits : Fits s (perBit * s.bitin.length) := by simpa [hbits] using fits_zero s
  rw [h.exec_of_fits hfits, hbits, h.output_nil]

end Sys2Proof.Machine
end

section
/-!
PROOFS about the substitution scans (42_scramble.md): a window and a bit outside one each hold levels known from the
registers, so a scan is the loop of its rule turn for turn, and plain AMI where there is no window.
-/

namespace Sys2Proof.Machine

open Sys2Proof.Spec

/-! ## Zero windows by index -/

theorem zeroWindow_iff_getElem? (k : Nat) (bits : List Bit) :
    zeroWindow k bits = true ↔ ∀ j, j < k → bits[j]? = some false := by
  constructor
  · intro h j hj
    rw [(zeroWindow_iff k bits).1 h, List.getElem?_append_left (by simpa using hj), List.getElem?_replicate_of_lt hj]
  · intro h
    rw [zeroWindow, Bool.and_eq_true, decide_eq_true_eq, List.all_eq_true]
    constructor
    · by_contra hlen
      simpa using h bits.length (by omega)
    · intro b hb
      obtain ⟨j, hj, rfl⟩ := List.mem_take_iff_getElem.1 hb
      have hzero := h j (by omega)
      rw [List.getElem?_eq_getElem (by omega)] at hzero
      simpa using hzero

theorem zeroWindow_drop_iff (k i : Nat) (bits : List Bit) :
    zeroWindow k (bits.drop i) = true ↔ ZerosAt bits i k := by
  simp [zeroWindow_iff_getElem?, ZerosAt]

theorem zerosAt_add_le {bits : List Bit} {i k : Nat} (hk : 0 < k) (h : ZerosAt bits i k) : i + k ≤ bits.length := by
  obtain ⟨hlast, -⟩ := List.getElem?_eq_some_iff.1 (h (k - 1) (by omega))
  omega

theorem zerosAt_cons_succ (b : Bit) (bs : List Bit) (i k : Nat) : ZerosAt (b :: bs) (i + 1) k ↔ ZerosAt bs i k := by
  simp [ZerosAt, Nat.add_right_comm i 1]

/-- The scan's own case split on the input. -/
theorem zeroWindow_induction {k : Nat} (hk : 0 < k) {motive : List Bit → Prop} (nil : motive [])
    (window : ∀ bits, zeroWindow k bits = true → motive (bits.drop k) → motive bits)
    (bit : ∀ b bs, zeroWindow k (b :: bs) = false → motive bs → motive (b :: bs)) (bits : List Bit) :
    motive bits := by
  induction hlen : bits.length using Nat.strong_induction_on generalizing bits with
  | _ n ih =>
    cases bits with
    | nil => exact nil
    | cons b bs =>
      rw [List.length_cons] at hlen
      cases hzero : zeroWindow k (b :: bs) with
      | true => exact window _ hzero (ih _ (by rw [List.length_drop, List.length_cons]; omega) _ rfl)
      | false => exact bit b bs hzero (ih _ (by omega) _ rfl)

/-! ## Registers and levels of the pieces -/

@[simp] theorem zeroDefaultsToPlus_negSgn (x : Sgn) :
    zeroDefaultsToPlus (negSgn (zeroDefaultsToPlus x)) = negSgn (zeroDefaultsToPlus x) := by
  cases x <;> rfl

theorem sgnLevel_zeroDefaultsToPlus (x : Sgn) :
    sgnLevel (zeroDefaultsToPlus x) = if sgnLevel x = 0 then 1 else sgnLevel x := by
  cases x <;> simp [sgnLevel, zeroDefaultsToPlus]

theorem sgnLevel_zeroDefaultsToPlus_ne_zero (x : Sgn) : sgnLevel (zeroDefaultsToPlus x) ≠ 0 := by
  cases x <;> simp [sgnLevel, zeroDefaultsToPlus]

/-- A substitution's two pieces and what they hold, `k` levels for a window and one for a bit outside. -/
structure SubstitutedCode (k : Nat) (window : Emit) (code : Bit → Emit) (windowLevels : EncRegs → List R)
    (bitLevel : Bit → EncRegs → R) : Prop where
  pos : 0 < k
  window_held : ∀ r, Held (window r) 1 r.t (windowLevels r)
  window_length : ∀ r, (windowLevels r).length = k
  bit_held : ∀ b r, Held (code b r) 1 r.t [bitLevel b r]

/-- Whole intervals in a row, the cursor moved at their end. -/
theorem intervals_held (levels : List R) (k : Nat) (r : EncRegs) :
    Held (emitAll (levels.map (seg · 1) ++ [advance k]) r) 1 r.t levels := by
  induction levels generalizing r with
  | nil => exact emitThen_held (advance_held k 1 r) (held_nil 1 _)
  | cons L Ls ih => exact emitThen_held (seg_held L 1 r) (ih _)

/-- The levels of 42_scramble.md R132, at `p = lastNZ` or +1. -/
def b8zsWindowLevels (r : EncRegs) : List R :=
  let p := sgnLevel (zeroDefaultsToPlus r.lastNZ)
  [0, 0, 0, p, -p, 0, -p, p]

/-- The level of a bit outside a B8ZS window (42_scramble.md R131). -/
def b8zsBitLevel (b : Bit) (r : EncRegs) : R := if b then -sgnLevel r.pol else 0

/-- B inverts `pol` twice, and the second one brings `lastNZ` back to `p`. -/
theorem b8zsWindow_regs (r : EncRegs) :
    (b8zsWindow r).1 = { r with i := r.i + 8, t := (b8zsWindow r).1.t, lastNZ := zeroDefaultsToPlus r.lastNZ } := by
  simp [b8zsWindow, emitV, emitB]

theorem b8zsWindow_held (r : EncRegs) : Held (b8zsWindow r) 1 r.t (b8zsWindowLevels r) where
  points := by simp [b8zsWindow, emitV, emitB, b8zsWindowLevels, heldFrom]
  cursor := by
    simp [b8zsWindow, emitV, emitB, b8zsWindowLevels]
    ring

theorem b8zs_substitutedCode : SubstitutedCode 8 b8zsWindow b8zsBit b8zsWindowLevels b8zsBitLevel where
  pos := by decide
  window_held := b8zsWindow_held
  window_length _ := rfl
  bit_held b r := by
    cases b with
    | false => exact interval_held 0 1 r
    | true =>
      simpa [b8zsBit, b8zsBitLevel] using interval_held _ 1 { r with pol := negSgn r.pol, lastNZ := negSgn r.pol }

/-- `B 0 0 V` or `0 0 0 V` by the parity of `marks` (42_scramble.md R136). -/
def hdb3WindowLevels (r : EncRegs) : List R :=
  let p := sgnLevel (zeroDefaultsToPlus r.lastP)
  if r.marks % 2 = 0 then [-p, 0, 0, -p] else [0, 0, 0, p]

/-- The level of a bit outside an HDB3 window (42_scramble.md R136). -/
def hdb3BitLevel (b : Bit) (r : EncRegs) : R := if b then -sgnLevel (zeroDefaultsToPlus r.lastP) else 0

theorem hdb3Window_held (r : EncRegs) : Held (hdb3Window r) 1 r.t (hdb3WindowLevels r) := by
  rw [hdb3Window, hdb3WindowLevels]
  split
  · simpa using intervals_held [_, 0, 0, _] 4 { r with lastP := negSgn (zeroDefaultsToPlus r.lastP), marks := 0 }
  · exact intervals_held [0, 0, 0, _] 4 { r with lastP := zeroDefaultsToPlus r.lastP, marks := 0 }

theorem hdb3_substitutedCode : SubstitutedCode 4 hdb3Window hdb3Bit hdb3WindowLevels hdb3BitLevel where
  pos := by decide
  window_held := hdb3Window_held
  window_length r := by rw [hdb3WindowLevels]; split <;> rfl
  bit_held b r := by
    cases b with
    | false => exact interval_held 0 1 r
    | true => simpa [hdb3Bit, hdb3BitLevel] using interval_held _ 1 { r with lastP := _, marks := r.marks + 1 }

/-- Settles O33: V repeats `p`, B inverts it and `pol`, and both happen twice. -/
theorem b8zsWindowEffect : Obligations.B8zsWindowEffect := by
  intro r
  have hheld := b8zsWindow_held r
  refine ⟨?_, b8zsWindow_regs r, ?_⟩
  · rw [hheld.points]
    rfl
  · simpa [b8zsWindowLevels] using hheld.cursor

/-! ## The scans against the loops of the spec -/

section
variable {k : Nat} {window : Emit} {code : Bit → Emit} {windowLevels : EncRegs → List R}
  {bitLevel : Bit → EncRegs → R}

/-- `turn` is the `while` loop of a substitution on `bits`, its registers at input index `i` being `loopOf i`: past
the end it stops, else it does what the scan does at its cursor. -/
structure IsScanLoop (k : Nat) (window : Emit) (code : Bit → Emit) (windowLevels : EncRegs → List R)
    (bitLevel : Bit → EncRegs → R) (bits : List Bit) {Loop : Type} (turn : Loop → Loop)
    (loopOf : Nat → EncRegs → List R → Loop) (levelsOf : Loop → List R) : Prop where
  levels : ∀ i r emitted, levelsOf (loopOf i r emitted) = emitted
  stop : ∀ i r emitted, ¬ ZerosAt bits i k → bits[i]? = none → turn (loopOf i r emitted) = loopOf i r emitted
  window : ∀ i r emitted, ZerosAt bits i k →
    turn (loopOf i r emitted) = loopOf (i + k) (window r).1 (emitted ++ windowLevels r)
  bit : ∀ i r emitted b, ¬ ZerosAt bits i k → bits[i]? = some b →
    turn (loopOf i r emitted) = loopOf (i + 1) (code b r).1 (emitted ++ [bitLevel b r])

section
variable {bits : List Bit} {Loop : Type} {turn : Loop → Loop} {loopOf : Nat → EncRegs → List R → Loop}
  {levelsOf : Loop → List R}

/-- With a turn for each bit left, the loop emits the levels the scan holds. -/
theorem SubstitutedCode.scan_held_of_loop (h : SubstitutedCode k window code windowLevels bitLevel)
    (hloop : IsScanLoop k window code windowLevels bitLevel bits turn loopOf levelsOf) (rest : List Bit) :
    ∀ i n r emitted, bits.drop i = rest → rest.length ≤ n → ∃ levels,
      levelsOf (turn^[n] (loopOf i r emitted)) = emitted ++ levels ∧
        Held (substitutionScan k window code rest 0 r) 1 r.t levels := by
  have hpos := h.pos
  induction rest using zeroWindow_induction hpos with
  | nil =>
    intro i n r emitted hrest _
    have hend : bits.length ≤ i := List.drop_eq_nil_iff.1 hrest
    have hzeros : ¬ ZerosAt bits i k := fun hz => by
      have hle := zerosAt_add_le hpos hz
      omega
    have hstop := hloop.stop i r emitted hzeros (List.getElem?_eq_none hend)
    refine ⟨[], ?_, held_nil 1 r⟩
    rw [Function.iterate_fixed hstop, hloop.levels, List.append_nil]
  | window rest hzero ih =>
    intro i n r emitted hrest hn
    have hzeros : ZerosAt bits i k := (zeroWindow_drop_iff k i bits).1 (hrest ▸ hzero)
    have hle := zerosAt_add_le hpos hzeros
    have hlen : rest.length = bits.length - i := by rw [← hrest, List.length_drop]
    obtain ⟨m, rfl⟩ : ∃ m, n = m + 1 := ⟨n - 1, by omega⟩
    obtain ⟨levels, hlevels, hheld⟩ := ih (i + k) m (window r).1 (emitted ++ windowLevels r)
      (by rw [← hrest, List.drop_drop]) (by rw [List.length_drop]; omega)
    refine ⟨windowLevels r ++ levels, ?_, ?_⟩
    · rw [Function.iterate_succ_apply, hloop.window i r emitted hzeros, hlevels, List.append_assoc]
    · rw [substitutionScan_window hpos hzero]
      exact emitThen_held (h.window_held r) hheld
  | bit b bs hzero ih =>
    intro i n r emitted hrest hn
    have hzeros : ¬ ZerosAt bits i k := by rw [← zeroWindow_drop_iff, hrest, hzero]; exact Bool.false_ne_true
    have hb : bits[i]? = some b := by rw [← List.head?_drop, hrest]; rfl
    obtain ⟨m, rfl⟩ : ∃ m, n = m + 1 := ⟨n - 1, by rw [List.length_cons] at hn; omega⟩
    obtain ⟨levels, hlevels, hheld⟩ := ih (i + 1) m (code b r).1 (emitted ++ [bitLevel b r])
      (by rw [← List.drop_drop, hrest]; rfl) (Nat.le_of_succ_le_succ hn)
    refine ⟨[bitLevel b r] ++ levels, ?_, ?_⟩
    · rw [Function.iterate_succ_apply, hloop.bit i r emitted b hzeros hb, hlevels, List.append_assoc]
    · rw [substitutionScan_bit hzero]
      exact emitThen_held (h.bit_held b r) hheld

/-- The whole output, from the registers at command start. -/
theorem SubstitutedCode.scan_eq_heldLevels (h : SubstitutedCode k window code windowLevels bitLevel)
    (hloop : IsScanLoop k window code windowLevels bitLevel bits turn loopOf levelsOf) :
    (substitutionScan k window code bits 0 initialEncRegs).2 =
      heldLevels 1 (levelsOf (turn^[bits.length] (loopOf 0 initialEncRegs []))) := by
  obtain ⟨levels, hlevels, hheld⟩ := h.scan_held_of_loop hloop bits 0 bits.length initialEncRegs [] rfl le_rfl
  rw [hlevels, List.nil_append, heldLevels_eq_heldFrom]
  exact hheld.points

end
end

/-- The registers of the loop of 42_scramble.md R131, from those of the encoder. -/
def b8zsLoopOf (i : Nat) (r : EncRegs) (emitted : List R) : B8zsLoop :=
  { i, pol := sgnLevel r.pol, lastNZ := sgnLevel r.lastNZ, levels := emitted }

theorem b8zsTurn_isScanLoop (bits : List Bit) :
    IsScanLoop 8 b8zsWindow b8zsBit b8zsWindowLevels b8zsBitLevel bits (b8zsTurn bits) b8zsLoopOf
      B8zsLoop.levels where
  levels _ _ _ := rfl
  stop i r emitted hzeros hnone := by
    rw [b8zsTurn, b8zsLoopOf]
    refine Eq.trans (if_neg fun h => hzeros h.2) ?_
    rw [hnone]
  window i r emitted hzeros := by
    rw [b8zsTurn, b8zsLoopOf]
    refine Eq.trans (if_pos ⟨zerosAt_add_le (by decide) hzeros, hzeros⟩) ?_
    rw [b8zsWindow_regs]
    simp [b8zsLoopOf, b8zsWindowLevels, ← sgnLevel_zeroDefaultsToPlus, sgnLevel_zeroDefaultsToPlus_ne_zero]
  bit i r emitted b hzeros hb := by
    rw [b8zsTurn, b8zsLoopOf]
    refine Eq.trans (if_neg fun h => hzeros h.2) ?_
    rw [hb]
    cases b <;> simp [b8zsLoopOf, b8zsBit, b8zsBitLevel]

theorem b8zsScan_eq_heldLevels (bits : List Bit) :
    (b8zsScan bits initialEncRegs).2 = heldLevels 1 (b8zsLevels bits) :=
  b8zs_substitutedCode.scan_eq_heldLevels (b8zsTurn_isScanLoop bits)

/-- Settles O31: the loop's `pol` and `lastNZ` are the levels of the encoder's registers. -/
theorem encAmiB8zsResult : Obligations.EncAmiB8zsResult := by
  refine ⟨decode_encode .encAmiB8zs, fun s hfits => ?_⟩
  obtain ⟨_, h⟩ := encAmiB8zs_encodes
  rw [h.exec_of_fits hfits, b8zsScan_eq_heldLevels]

/-- The registers of the loop of 42_scramble.md R136, from those of the encoder. -/
def hdb3LoopOf (i : Nat) (r : EncRegs) (emitted : List R) : Hdb3Loop :=
  { i, lastP := sgnLevel r.lastP, marks := r.marks, levels := emitted }

theorem hdb3Turn_isScanLoop (bits : List Bit) :
    IsScanLoop 4 hdb3Window hdb3Bit hdb3WindowLevels hdb3BitLevel bits (hdb3Turn bits) hdb3LoopOf
      Hdb3Loop.levels where
  levels _ _ _ := rfl
  stop i r emitted hzeros hnone := by
    rw [hdb3Turn, hdb3LoopOf]
    refine Eq.trans (if_neg fun h => hzeros h.2) ?_
    rw [hnone]
  window i r emitted hzeros := by
    rw [hdb3Turn, hdb3LoopOf]
    refine Eq.trans (if_pos ⟨zerosAt_add_le (by decide) hzeros, hzeros⟩) ?_
    rw [hdb3Window, hdb3WindowLevels]
    split
    · simp [hdb3LoopOf, sgnLevel_zeroDefaultsToPlus]
    · simp [hdb3LoopOf, sgnLevel_zeroDefaultsToPlus]
  bit i r emitted b hzeros hb := by
    rw [hdb3Turn, hdb3LoopOf]
    refine Eq.trans (if_neg fun h => hzeros h.2) ?_
    rw [hb]
    cases b <;> simp [hdb3LoopOf, hdb3Bit, hdb3BitLevel, sgnLevel_zeroDefaultsToPlus]

theorem hdb3Scan_eq_heldLevels (bits : List Bit) :
    (hdb3Scan bits initialEncRegs).2 = heldLevels 1 (hdb3Levels bits) :=
  hdb3_substitutedCode.scan_eq_heldLevels (hdb3Turn_isScanLoop bits)

/-- Settles O32: the loop's `lastP` is the level of the encoder's register, and `marks` is the same. -/
theorem encAmiHdb3Result : Obligations.EncAmiHdb3Result := by
  refine ⟨decode_encode .encAmiHdb3, fun s hfits => ?_⟩
  obtain ⟨_, h⟩ := encAmiHdb3_encodes
  rw [h.exec_of_fits hfits, hdb3Scan_eq_heldLevels]

/-! ## Without a window -/

/-- With no window to take, the scan codes bit by bit. -/
theorem substitutionScan_of_no_window {k : Nat} {window : Emit} {code : Bit → Emit} {bits : List Bit}
    (h : ∀ i, ¬ ZerosAt bits i k) : substitutionScan k window code bits 0 = scanBits code bits := by
  induction bits with
  | nil => rfl
  | cons b bs ih =>
    have hzero : zeroWindow k (b :: bs) = false :=
      Bool.eq_false_iff.2 fun hw => h 0 ((zeroWindow_drop_iff k 0 (b :: bs)).1 hw)
    rw [substitutionScan_bit hzero, scanBits_cons, ih fun i hi => h (i + 1) ((zerosAt_cons_succ b bs i k).2 hi)]

/-- B8ZS codes a bit outside a window as AMI does, whatever `lastNZ`. -/
theorem b8zsBit_signedCode :
    SignedCode b8zsBit 1 (fun r => -sgnLevel r.pol) (fun b => [if b then 1 else 0]) (turnOn true) amiLevels where
  held b r := by
    have hheld := b8zs_substitutedCode.bit_held b r
    cases b <;> simpa [b8zsBitLevel] using hheld
  turned b r := by cases b <;> simp [b8zsBit, turnOn]
  start := amiBit_signedCode.start
  nil := amiBit_signedCode.nil
  cons := amiBit_signedCode.cons

/-- `lastP` is the sign last sent, and +1 stands for a `lastP` of 0. -/
theorem hdb3Bit_signedCode :
    SignedCode hdb3Bit 1 (fun r => -sgnLevel (zeroDefaultsToPlus r.lastP)) (fun b => [if b then 1 else 0])
      (turnOn true) amiLevels where
  held b r := by
    have hheld := hdb3_substitutedCode.bit_held b r
    cases b <;> simpa [hdb3BitLevel] using hheld
  turned b r := by cases b <;> simp [hdb3Bit, turnOn]
  start := by simp [initialEncRegs, zeroDefaultsToPlus, sgnLevel]
  nil := amiBit_signedCode.nil
  cons := amiBit_signedCode.cons

theorem substitutionScan_eq_amiLevels {k : Nat} {window : Emit} {code : Bit → Emit} {sign : EncRegs → R}
    (hcode : SignedCode code 1 sign (fun b => [if b then 1 else 0]) (turnOn true) amiLevels)
    {bits : List Bit} (h : ∀ i, ¬ ZerosAt bits i k) :
    (substitutionScan k window code bits 0 initialEncRegs).2 = heldLevels 1 (amiLevels bits) := by
  rw [substitutionScan_of_no_window h, hcode.scanBits_eq_heldLevels]

theorem encFrame_congr {body body' : List Bit → Emit} {s : State}
    (h : (body s.bitin initialEncRegs).2 = (body' s.bitin initialEncRegs).2) :
    encFrame body s = encFrame body' s := by
  rw [encFrame, encFrame, h]

/-- Settles O36: outside windows both codes send a 1 opposite to the last one and a 0 at level 0, as AMI does. -/
theorem scrambledIsPlainWithoutWindows : Obligations.ScrambledIsPlainWithoutWindows := by
  intro s
  have hami := encAmi_encodes.output s.bitin
  constructor
  · intro h
    exact congrArg _ (encFrame_congr ((substitutionScan_eq_amiLevels b8zsBit_signedCode h).trans hami.symm))
  · intro h
    exact congrArg _ (encFrame_congr ((substitutionScan_eq_amiLevels hdb3Bit_signedCode h).trans hami.symm))

end Sys2Proof.Machine
end

section
/-!
PROOFS that the substitutions leave no long run of zero levels (42_scramble.md R134, R139): a window ends in a pulse,
and where none begins a 1 is near.
-/

namespace Sys2Proof.Machine

open Sys2Proof.Spec

/-! ## Level lists without a run of zeros -/

/-- Interval `j` of the levels is at a non-zero level. -/
def PulseAt (levels : List R) (j : Nat) : Prop := ∃ L, levels[j]? = some L ∧ L ≠ 0

theorem pulseAt_append_left {as bs : List R} {j : Nat} (h : PulseAt as j) : PulseAt (as ++ bs) j := by
  obtain ⟨L, hL, hne⟩ := h
  exact ⟨L, by rw [List.getElem?_append_left (List.getElem?_eq_some_iff.1 hL).1, hL], hne⟩

theorem pulseAt_append_right {as bs : List R} {j : Nat} (h : PulseAt bs j) : PulseAt (as ++ bs) (as.length + j) := by
  obtain ⟨L, hL, hne⟩ := h
  exact ⟨L, by rw [List.getElem?_append_right (by omega), Nat.add_sub_cancel_left, hL], hne⟩

/-- Every 1 has a pulse, and so has every stretch of `k` intervals. -/
structure NoZeroRun (k : Nat) (bits : List Bit) (levels : List R) : Prop where
  ones : ∀ j, bits[j]? = some true → PulseAt levels j
  dense : ∀ m, m + k ≤ bits.length → ∃ j, j < k ∧ PulseAt levels (m + j)

theorem noZeroRun_nil {k : Nat} (hk : 0 < k) : NoZeroRun k [] [] where
  ones j h := by simp at h
  dense m h := absurd h (by rw [List.length_nil]; omega)

/-- The window ends in a pulse, so a stretch that begins inside it has one. -/
theorem noZeroRun_window {k : Nat} {bits : List Bit} {ws levels : List R} (hk : 0 < k)
    (hzero : zeroWindow k bits = true) (hlen : ws.length = k) (hlast : PulseAt ws (k - 1))
    (h : NoZeroRun k (bits.drop k) levels) : NoZeroRun k bits (ws ++ levels) where
  ones j hj := by
    have hjk : k ≤ j := by
      by_contra hlt
      rw [(zeroWindow_iff_getElem? k bits).1 hzero j (by omega)] at hj
      cases hj
    obtain ⟨i, rfl⟩ := Nat.exists_eq_add_of_le hjk
    have hpulse := pulseAt_append_right (as := ws) (h.ones i (by rw [List.getElem?_drop, hj]))
    rwa [hlen] at hpulse
  dense m hm := by
    rcases lt_or_ge m k with hmk | hmk
    · refine ⟨k - 1 - m, by omega, ?_⟩
      rw [show m + (k - 1 - m) = k - 1 by omega]
      exact pulseAt_append_left hlast
    · obtain ⟨i, rfl⟩ := Nat.exists_eq_add_of_le hmk
      obtain ⟨j, hj, hpulse⟩ := h.dense i (by rw [List.length_drop]; omega)
      have hright := pulseAt_append_right (as := ws) hpulse
      rw [hlen, ← Nat.add_assoc] at hright
      exact ⟨j, hj, hright⟩

/-- Where no window begins, one of the next `k` bits is a 1. -/
theorem noZeroRun_bit {k : Nat} {b : Bit} {bs : List Bit} {L : R} {levels : List R}
    (hzero : zeroWindow k (b :: bs) = false) (hL : b = true → L ≠ 0) (h : NoZeroRun k bs levels) :
    NoZeroRun k (b :: bs) (L :: levels) := by
  have hones : ∀ j, (b :: bs)[j]? = some true → PulseAt (L :: levels) j := by
    intro j hj
    cases j with
    | zero => exact ⟨L, rfl, hL (by simpa using hj)⟩
    | succ j => exact h.ones j hj
  refine ⟨hones, fun m hm => ?_⟩
  cases m with
  | zero =>
    have hone : ∃ j, j < k ∧ (b :: bs)[j]? ≠ some false := by
      by_contra hall
      push Not at hall
      rw [(zeroWindow_iff_getElem? k (b :: bs)).2 hall] at hzero
      cases hzero
    obtain ⟨j, hj, hne⟩ := hone
    refine ⟨j, hj, ?_⟩
    rw [Nat.zero_add]
    refine hones j ?_
    rw [List.getElem?_eq_getElem (by omega)] at hne ⊢
    simpa using hne
  | succ m =>
    obtain ⟨j, hj, hpulse⟩ := h.dense m (by rw [List.length_cons] at hm; omega)
    refine ⟨j, hj, ?_⟩
    rwa [Nat.succ_add]

/-! ## The scans -/

/-- `Inv` keeps the sign of the pulse for a 1 from being 0. -/
theorem SubstitutedCode.scan_held_noZeroRun {k : Nat} {window : Emit} {code : Bit → Emit}
    {windowLevels : EncRegs → List R} {bitLevel : Bit → EncRegs → R}
    (h : SubstitutedCode k window code windowLevels bitLevel) (Inv : EncRegs → Prop)
    (hwindow : ∀ r, Inv r → Inv (window r).1) (hbit : ∀ b r, Inv r → Inv (code b r).1)
    (hlast : ∀ r, PulseAt (windowLevels r) (k - 1)) (hone : ∀ r, Inv r → bitLevel true r ≠ 0) (bits : List Bit) :
    ∀ r, Inv r → ∃ levels,
      Held (substitutionScan k window code bits 0 r) 1 r.t levels ∧ NoZeroRun k bits levels := by
  induction bits using zeroWindow_induction h.pos with
  | nil => exact fun r _ => ⟨[], held_nil 1 r, noZeroRun_nil h.pos⟩
  | window bits hzero ih =>
    intro r hr
    obtain ⟨levels, hheld, hrun⟩ := ih (window r).1 (hwindow r hr)
    rw [substitutionScan_window h.pos hzero]
    exact ⟨windowLevels r ++ levels, emitThen_held (h.window_held r) hheld,
      noZeroRun_window h.pos hzero (h.window_length r) (hlast r) hrun⟩
  | bit b bs hzero ih =>
    intro r hr
    obtain ⟨levels, hheld, hrun⟩ := ih (code b r).1 (hbit b r hr)
    rw [substitutionScan_bit hzero]
    exact ⟨bitLevel b r :: levels, emitThen_held (h.bit_held b r) hheld,
      noZeroRun_bit hzero (fun hb => hb ▸ hone r hr) hrun⟩

theorem b8zsScan_noZeroRun (bits : List Bit) :
    ∃ levels, (b8zsScan bits initialEncRegs).2 = heldLevels 1 levels ∧ NoZeroRun 8 bits levels := by
  obtain ⟨levels, hheld, hrun⟩ := b8zs_substitutedCode.scan_held_noZeroRun (fun r => sgnLevel r.pol ≠ 0)
    (fun r hr => by rwa [b8zsWindow_regs]) (fun b r hr => by cases b <;> simpa [b8zsBit] using hr)
    (fun r => ⟨_, rfl, sgnLevel_zeroDefaultsToPlus_ne_zero r.lastNZ⟩) (fun r hr => neg_ne_zero.2 hr) bits
    initialEncRegs (by simp [initialEncRegs, sgnLevel])
  exact ⟨levels, hheld.points.trans (heldLevels_eq_heldFrom 1 levels).symm, hrun⟩

theorem hdb3WindowLevels_pulseAt_last (r : EncRegs) : PulseAt (hdb3WindowLevels r) 3 := by
  have hne := sgnLevel_zeroDefaultsToPlus_ne_zero r.lastP
  rw [hdb3WindowLevels]
  split
  · exact ⟨_, rfl, neg_ne_zero.2 hne⟩
  · exact ⟨_, rfl, hne⟩

theorem hdb3Scan_noZeroRun (bits : List Bit) :
    ∃ levels, (hdb3Scan bits initialEncRegs).2 = heldLevels 1 levels ∧ NoZeroRun 4 bits levels := by
  obtain ⟨levels, hheld, hrun⟩ := hdb3_substitutedCode.scan_held_noZeroRun (fun _ => True) (fun _ _ => trivial)
    (fun _ _ _ => trivial) hdb3WindowLevels_pulseAt_last
    (fun r _ => neg_ne_zero.2 (sgnLevel_zeroDefaultsToPlus_ne_zero r.lastP)) bits initialEncRegs trivial
  exact ⟨levels, hheld.points.trans (heldLevels_eq_heldFrom 1 levels).symm, hrun⟩

/-- Interval `j` starts at point `2 j` (41_line_encoder.md R116). -/
theorem heldLevels_start_getElem? (d : R) {levels : List R} {j : Nat} {L : R} (h : levels[j]? = some L) :
    (heldLevels d levels)[2 * j]? = some ⟨j * d, L⟩ := by
  rw [heldLevels, (flatMap_pair_getElem? _ _ _ j).1, List.getElem?_zipIdx, h]
  simp

section
variable {i : Instr} {perBit : Nat} {body : List Bit → Emit} {d : R} {levels : List Bit → List R}

/-- A command that completes leaves its whole waveform. -/
theorem Encodes.waveout_of_ok (h : Encodes i perBit body d levels) {s t : State} (hexec : exec i s = .next t)
    (hok : t.status = 0) : t.waveout = (body s.bitin initialEncRegs).2 := by
  by_cases hfits : Fits s (perBit * s.bitin.length)
  · obtain rfl := Host.Outcome.next.inj ((h.exec_of_fits hfits).symm.trans hexec)
    rfl
  · obtain rfl := Host.Outcome.next.inj ((h.exec_of_not_fits hfits).symm.trans hexec)
    simp [afterFailure] at hok

/-- When every output is free of runs of `k` zero levels, so is the waveform of a completed command. -/
theorem Encodes.exists_pulse (h : Encodes i perBit body d levels) {k : Nat}
    (hrun : ∀ bits, ∃ levels, (body bits initialEncRegs).2 = heldLevels 1 levels ∧ NoZeroRun k bits levels)
    {s t : State} {m : Nat} (hexec : exec i s = .next t) (hok : t.status = 0) (hm : m + k ≤ s.bitin.length) :
    ∃ (j : Nat) (p : Point), j < k ∧ t.waveout[2 * (m + j)]? = some p ∧ p.level ≠ 0 := by
  obtain ⟨levels, hwave, hlevels⟩ := hrun s.bitin
  obtain ⟨j, hj, L, hL, hne⟩ := hlevels.dense m hm
  rw [h.waveout_of_ok hexec hok, hwave]
  exact ⟨j, _, hj, heldLevels_start_getElem? 1 hL, hne⟩

end

/-- Settles O34: a window ends in a pulse at `p`, and `pol` is never 0. -/
theorem b8zsNeverEightZeros : Obligations.B8zsNeverEightZeros := by
  intro s t m hexec hok hm
  obtain ⟨_, h⟩ := encAmiB8zs_encodes
  exact h.exists_pulse b8zsScan_noZeroRun hexec hok hm

/-- Settles O35: a window ends in its violation V, and the sign of a pulse is never 0. -/
theorem hdb3NeverFourZeros : Obligations.Hdb3NeverFourZeros := by
  intro s t m hexec hok hm
  obtain ⟨_, h⟩ := encAmiHdb3_encodes
  exact h.exists_pulse hdb3Scan_noZeroRun hexec hok hm

end Sys2Proof.Machine
end

section
/-!
PROOFS about the DEC commands (43_line_decoder.md): each decides an interval from samples of the waveform and the sign
carried from the interval before, whatever waveform the host loads.
-/

namespace Sys2Proof.Machine

open Sys2Proof.Spec

/-! ## Samples and signs in the statements' words -/

theorem isLevelAt_cons_iff {p : Point} {ps : Wave} {tx L : R} : IsLevelAt (p :: ps) tx L ↔ levelAt p ps tx = L :=
  levelAtIsTheFirstPointAtOrAfter p ps tx L

/-- Mathlib's three signs as values of the sign registers. -/
def sgnOfSign : SignType → Sgn
  | .neg => .minus
  | .zero => .zero
  | .pos => .plus

theorem sgnOfSign_injective : Function.Injective sgnOfSign := by decide

theorem signOf_eq_sgnOfSign (x : R) : signOf x = sgnOfSign (SignType.sign x) := by
  rcases lt_trichotomy x 0 with hx | rfl | hx
  · rw [sign_neg hx, signOf, if_neg hx.not_gt, if_neg hx.ne]
    rfl
  · rw [sign_zero]
    rfl
  · rw [sign_pos hx, signOf, if_pos hx]
    rfl

theorem signOf_eq_signOf_iff {x y : R} : signOf x = signOf y ↔ SignType.sign x = SignType.sign y := by
  rw [signOf_eq_sgnOfSign, signOf_eq_sgnOfSign, sgnOfSign_injective.eq_iff]

/-! ## Any waveform, interval by interval -/

/-- A decoder's sample rule: `carried` is `prev` before each interval, and from it interval `b` of a waveform is decided
by `decides`. -/
structure SampleRule (seed : (R → R) → Option Sgn) (interval : (R → R) → DecRegs → DecRegs × Bit)
    (carried : (R → R) → Nat → Option Sgn) (decides : Wave → Nat → Prop) : Prop where
  start : ∀ level, seed level = carried level 0
  keeps : ∀ level r, (interval level r).1.b = r.b
  carries : ∀ level r, r.prev = carried level r.b → (interval level r).1.prev = carried level (r.b + 1)
  bit : ∀ p ps r, r.prev = carried (levelAt p ps) r.b →
    ((interval (levelAt p ps) r).2 = true ↔ decides (p :: ps) r.b)

section
variable {seed : (R → R) → Option Sgn} {interval : (R → R) → DecRegs → DecRegs × Bit}
  {carried : (R → R) → Nat → Option Sgn} {decides : Wave → Nat → Prop}

theorem decodedBits_length {p q : Point} {ps : Wave} (hlast : (p :: ps).getLast? = some q) :
    (decodedBits seed interval p ps).length = intervalsOf q.time := by
  rw [decodedBits, decodeIntervals_length, intervalCount_eq_intervalsOf hlast]

/-- From registers at interval `r.b`, bit `b` is that of interval `r.b + b`. -/
theorem SampleRule.decodeIntervals_getElem? (h : SampleRule seed interval carried decides) {p : Point} {ps : Wave}
    {n b : Nat} {r : DecRegs} (hb : b < n) (hprev : r.prev = carried (levelAt p ps) r.b) :
    (decodeIntervals (interval (levelAt p ps)) n r)[b]? = some true ↔ decides (p :: ps) (r.b + b) := by
  induction n generalizing b r with
  | zero => exact absurd hb b.not_lt_zero
  | succ n ih =>
    rw [decodeIntervals]
    cases b with
    | zero =>
      rw [List.getElem?_cons_zero, Option.some.injEq]
      exact h.bit p ps r hprev
    | succ b =>
      have hnext := h.carries (levelAt p ps) r hprev
      rw [← h.keeps (levelAt p ps) r] at hnext
      rw [List.getElem?_cons_succ, ih (Nat.lt_of_succ_lt_succ hb) hnext, h.keeps, Nat.add_right_comm, Nat.add_assoc]

theorem SampleRule.decodesBy (h : SampleRule seed interval carried decides) {i : Instr}
    (hexec : ∀ s, exec i s = .next (decFrame seed interval s)) : DecodesBy i decides := by
  intro s q hlast _ hin hout
  cases hwave : s.wavein with
  | nil => simp [hwave] at hlast
  | cons p ps =>
    rw [hwave] at hlast
    refine ⟨decodedBits seed interval p ps, ?_, decodedBits_length hlast, fun b hb => ?_⟩
    · rw [hexec, decFrame_of_fits seed interval hwave hlast hin hout]
    · rw [← intervalCount_eq_intervalsOf hlast] at hb
      simpa [decodedBits, initialDecRegs] using
        h.decodeIntervals_getElem? (r := initialDecRegs seed p ps) hb (h.start _)

/-- A decoder that compares nothing with the interval before carries nothing. -/
theorem decodesBy_of_memoryless {i : Instr} (hexec : ∀ s, exec i s = .next (decFrame noSeed interval s))
    (hregs : ∀ level r, (interval level r).1 = r)
    (hbit : ∀ p ps r, (interval (levelAt p ps) r).2 = true ↔ decides (p :: ps) r.b) : DecodesBy i decides :=
  have hrule : SampleRule noSeed interval (fun _ _ => none) decides :=
    { start := fun _ => rfl
      keeps := fun level r => congrArg DecRegs.b (hregs level r)
      carries := fun level r hprev => (congrArg DecRegs.prev (hregs level r)).trans hprev
      bit := fun p ps r _ => hbit p ps r }
  hrule.decodesBy hexec

end

/-! ## The five sample rules -/

/-- Settles O39: the bit is the test on the sample at the interval's middle. -/
theorem decNrzlResult : Obligations.DecNrzlResult := by
  refine ⟨decode_encode .decNrzl,
    decodesBy_of_memoryless (interval := nrzlInterval) (fun _ => rfl) (fun _ _ => rfl) fun p ps r => ?_⟩
  simp [nrzlInterval, isLevelAt_cons_iff]

/-- Settles O41: the bit compares the samples of the two halves. -/
theorem decManResult : Obligations.DecManResult := by
  refine ⟨decode_encode .decMan,
    decodesBy_of_memoryless (interval := manInterval) (fun _ => rfl) (fun _ _ => rfl) fun p ps r => ?_⟩
  simp [manInterval, isLevelAt_cons_iff]

/-- Settles O43: the bit is the test on the size of the sample at the interval's middle. -/
theorem decAmiResult : Obligations.DecAmiResult := by
  refine ⟨decode_encode .decAmi,
    decodesBy_of_memoryless (interval := amiInterval) (fun _ => rfl) (fun _ _ => rfl) fun p ps r => ?_⟩
  simp [amiInterval, isLevelAt_cons_iff]

/-- The sign `DEC.NRZI` carries into interval `b` (43_line_decoder.md R153). -/
def nrziCarried (level : R → R) (b : Nat) : Option Sgn :=
  some (signOf (level (if b = 0 then 1 / 4 else b - 1 + 99 / 100)))

/-- Settles O40: `prev` is the seed's sign at interval 0, and then the sign at the end of the interval before. -/
theorem decNrziResult : Obligations.DecNrziResult := by
  refine ⟨decode_encode .decNrzi, SampleRule.decodesBy (interval := nrziInterval) (carried := nrziCarried)
    ⟨fun _ => rfl, fun _ _ => rfl, fun level r _ => ?_, fun p ps r hprev => ?_⟩ fun _ => rfl⟩
  · simp [nrziInterval, nrziCarried]
  · simp [nrziInterval, nrziCarried, hprev, isLevelAt_cons_iff, signOf_eq_signOf_iff]

/-- The sign `DEC.DMAN` carries into interval `b` (43_line_decoder.md R155). -/
def dmanCarried (level : R → R) (b : Nat) : Option Sgn :=
  some (signOf (level (if b = 0 then 1 / 2 else b - 1 + 1 / 2)))

/-- Settles O42: `prev` is the seed's sign at interval 0, and then the sign at the midpoint of the interval before. -/
theorem decDmanResult : Obligations.DecDmanResult := by
  refine ⟨decode_encode .decDman, SampleRule.decodesBy (interval := dmanInterval) (carried := dmanCarried)
    ⟨fun _ => rfl, fun _ _ => rfl, fun level r _ => ?_, fun p ps r hprev => ?_⟩ fun _ => rfl⟩
  · simp [dmanInterval, dmanCarried]
  · simp [dmanInterval, dmanCarried, hprev, isLevelAt_cons_iff, signOf_eq_signOf_iff]

/-! ## No interval -/

theorem intervalsOf_of_lt_half {t : R} (h : t < 1 / 2) : intervalsOf t = 0 := by
  have hfloor : ⌊t + 1 / 2⌋ < 1 := Int.floor_lt.2 (by push_cast; linarith)
  rw [intervalsOf]
  omega

/-- Settles O44: with no interval to decode, whichever the sample rule, `BITOUT` stays empty. -/
theorem decodingNoInterval : Obligations.DecodingNoInterval := by
  intro s i q hmem hlast hq hin
  obtain ⟨seed, interval, hexec⟩ := exec_dec_eq_decFrame hmem
  have hcount := intervalsOf_of_lt_half hq
  cases hwave : s.wavein with
  | nil => simp [hwave] at hlast
  | cons p ps =>
    rw [hwave] at hlast
    have hbits : decodedBits seed interval p ps = [] :=
      List.length_eq_zero_iff.1 ((decodedBits_length hlast).trans hcount)
    rw [hexec, decFrame_of_fits seed interval hwave hlast hin (hcount ▸ fits_zero s), hbits]

/-! ## Scrambled waveforms -/

/-- Whatever three-valued levels it reads back, `DEC.AMI` marks those that are not 0. -/
theorem decAmi_decodesLevels_of_ternary {levels : List R} (h : ∀ L ∈ levels, L = -1 ∨ L = 0 ∨ L = 1) :
    DecodesLevels noSeed amiInterval 1 levels (levels.map fun L => decide (L ≠ 0)) := by
  intro level r hreads hb _
  refine decodeIntervals_eq_of_memoryless (fun _ => rfl) hb fun k x r hx hr => ?_
  subst hr
  rw [List.getElem?_map, Option.map_eq_some_iff] at hx
  obtain ⟨L, hL, rfl⟩ := hx
  rw [amiInterval, hreads r.b L (r.b + 1 / 2) hL (by linarith) (by linarith)]
  rcases h L (List.mem_of_getElem? hL) with rfl | rfl | rfl <;> norm_num

theorem Encodes.levels_ternary {i : Instr} {perBit : Nat} {body : List Bit → Emit} {d : R}
    {levels : List Bit → List R} (h : Encodes i perBit body d levels) (bits : List Bit) :
    ∀ L ∈ levels bits, L = -1 ∨ L = 0 ∨ L = 1 := by
  intro L hL
  obtain ⟨k, hk⟩ := List.mem_iff_getElem?.1 hL
  have hpoint := heldLevels_start_getElem? d hk
  rw [← h.output] at hpoint
  exact h.ternary bits _ (List.mem_of_getElem? hpoint)

/-- `DEC.AMI` on the waveform of an encoder with one level for each bit. -/
theorem Encodes.rectifies {i : Instr} {body : List Bit → Emit} {levels : List Bit → List R}
    (h : Encodes i 2 body 1 levels) {s : State} (hne : s.bitin ≠ []) (hfits : Fits s (2 * s.bitin.length)) :
    ∃ t u, exec i s = .next t ∧ exec .decAmi { t with wavein := t.waveout } = .next u ∧
      u.bitout.length = s.bitin.length ∧
      ∀ k p, k < s.bitin.length → t.waveout[2 * k]? = some p → (u.bitout[k]? = some true ↔ p.level ≠ 0) := by
  have hlen : (levels s.bitin).length = s.bitin.length := Nat.eq_of_mul_eq_mul_left two_pos (h.points s.bitin)
  obtain ⟨t, u, hexec, hdec, hbits, -⟩ := h.roundTrip (j := .decAmi) (fun _ => rfl) hne hfits
    (by rw [List.length_map, hlen]) (decAmi_decodesLevels_of_ternary (h.levels_ternary s.bitin))
  refine ⟨t, u, hexec, hdec, by rw [hbits, List.length_map, hlen], fun k p hk hp => ?_⟩
  obtain rfl := Host.Outcome.next.inj ((h.exec_of_fits hfits).symm.trans hexec)
  have hL := List.getElem?_eq_getElem (hlen ▸ hk)
  have hpoint : (body s.bitin initialEncRegs).2[2 * k]? = _ := h.output s.bitin ▸ heldLevels_start_getElem? 1 hL
  obtain rfl := Option.some.inj (hp.symm.trans hpoint)
  rw [hbits, List.getElem?_map, hL]
  simp

/-- Settles O47: both substitutions hold one three-valued level for each bit. -/
theorem decAmiRectifiesScrambled : Obligations.DecAmiRectifiesScrambled := by
  rintro s i (rfl | rfl) hne hfits
  · obtain ⟨_, h⟩ := encAmiB8zs_encodes
    exact h.rectifies hne hfits
  · obtain ⟨_, h⟩ := encAmiHdb3_encodes
    exact h.rectifies hne hfits

end Sys2Proof.Machine
end

section
/-!
PROOFS about the analyzer (44_analyzer.md): the palindrome and the zero run that `ANALYZE` reports are the longest (R171,
R174), and the Manacher engine finds the same palindrome (R173).
-/

namespace Sys2Proof.Machine

open Sys2Proof.Spec

/-! ## The longest palindrome (44_analyzer.md R171) -/

/-- `(a, len)` is the result of 44_analyzer.md R171: a palindrome, none longer, and none of its length earlier. -/
def IsLongestPalindrome (s : List Bit) (a len : Nat) : Prop :=
  PalindromeAt s a len ∧ ∀ a' len', PalindromeAt s a' len' → len' ≤ len ∧ (len' = len → a ≤ a')

theorem IsLongestPalindrome.unique {s : List Bit} {p q : Nat × Nat} (hp : IsLongestPalindrome s p.1 p.2)
    (hq : IsLongestPalindrome s q.1 q.2) : p = q := by
  obtain ⟨hpq, hstart⟩ := hp.2 _ _ hq.1
  obtain ⟨hqp, hstart'⟩ := hq.2 _ _ hp.1
  have hlen := le_antisymm hqp hpq
  exact Prod.ext (le_antisymm (hstart hlen.symm) (hstart' hlen)) hlen

theorem firstPalindrome_some_le {s : List Bit} {len a a' : Nat} (h : firstPalindrome s len = some a)
    (hpal : PalindromeAt s a' len) : a ≤ a' := by
  obtain ⟨-, -, hbefore⟩ := List.find?_range_eq_some.1 h
  refine Nat.le_of_not_lt fun hlt => ?_
  simpa [(isPalindromeAt_iff s a' len).2 hpal.2] using hbefore a' hlt

theorem firstPalindrome_none {s : List Bit} {len : Nat} (h : firstPalindrome s len = none) (a : Nat) :
    ¬ PalindromeAt s a len := by
  rintro ⟨hfits, hsym⟩
  exact List.find?_eq_none.1 h a (List.mem_range.2 (by omega)) ((isPalindromeAt_iff s a len).2 hsym)

/-- The search downwards from `n` stops at the greatest length not above `n`, at its earliest start. -/
theorem longestPalindromeUpTo_greatest (s : List Bit) {n a len : Nat} (hlen : len ≤ n) (hpal : PalindromeAt s a len) :
    len ≤ (longestPalindromeUpTo s n).2 ∧
      (len = (longestPalindromeUpTo s n).2 → (longestPalindromeUpTo s n).1 ≤ a) := by
  induction n with
  | zero => exact ⟨hlen, fun _ => Nat.zero_le a⟩
  | succ n ih =>
    rw [longestPalindromeUpTo]
    split
    case h_1 b hfirst => exact ⟨hlen, fun (heq : len = n + 1) => firstPalindrome_some_le hfirst (heq ▸ hpal)⟩
    case h_2 hnone =>
      have hne : len ≠ n + 1 := fun heq => firstPalindrome_none hnone a (heq ▸ hpal)
      exact ih (by omega)

theorem longestPalindrome_isLongestPalindrome (s : List Bit) :
    IsLongestPalindrome s (longestPalindrome s).1 (longestPalindrome s).2 :=
  ⟨longestPalindromeUpTo_palindromeAt s s.length, fun _ _ hpal =>
    longestPalindromeUpTo_greatest s (by have := hpal.1; omega) hpal⟩

/-! ## The longest zero run (44_analyzer.md R174) -/

theorem zeroRunAt_zero {s : List Bit} {a : Nat} (h : a ≤ s.length) : ZeroRunAt s a 0 :=
  ⟨h, fun k hk => absurd hk (Nat.not_lt_zero k)⟩

/-- A run that does not reach the last bit does not see it. -/
theorem zeroRunAt_append_of_le {s : List Bit} {b : Bit} {a z : Nat} (h : a + z ≤ s.length) :
    ZeroRunAt (s ++ [b]) a z ↔ ZeroRunAt s a z := by
  have hget : ∀ k, k < z → (s ++ [b])[a + k]? = s[a + k]? := fun k hk => List.getElem?_append_left (by omega)
  constructor
  · exact fun ⟨_, hzero⟩ => ⟨h, fun k hk => hget k hk ▸ hzero k hk⟩
  · exact fun ⟨_, hzero⟩ => ⟨by rw [List.length_append]; omega, fun k hk => (hget k hk).trans (hzero k hk)⟩

/-- A run that reaches the last bit is a run before it with one zero more. -/
theorem zeroRunAt_append_succ {s : List Bit} {b : Bit} {a z : Nat} (h : a + z = s.length) :
    ZeroRunAt (s ++ [b]) a (z + 1) ↔ ZeroRunAt s a z ∧ b = false := by
  have hlast : (s ++ [b])[a + z]? = some b := by rw [h, List.getElem?_concat_length]
  have hlen : a + (z + 1) ≤ (s ++ [b]).length := by rw [List.length_append, List.length_singleton]; omega
  rw [← zeroRunAt_append_of_le (b := b) h.le]
  constructor
  · rintro ⟨-, hzero⟩
    exact ⟨⟨by omega, fun k hk => hzero k (by omega)⟩, Option.some.inj (hlast.symm.trans (hzero z z.lt_succ_self))⟩
  · rintro ⟨⟨-, hzero⟩, rfl⟩
    refine ⟨hlen, fun k hk => ?_⟩
    rcases Nat.lt_succ_iff_lt_or_eq.1 hk with hk | rfl
    · exact hzero k hk
    · exact hlast

/-- The runs of `s` with one bit more: none, one of `s`, or one that the new bit makes longer. -/
theorem zeroRunAt_append_cases {s : List Bit} {b : Bit} {a z : Nat} (h : ZeroRunAt (s ++ [b]) a z) :
    z = 0 ∨ ZeroRunAt s a z ∨ b = false ∧ ∃ z', z = z' + 1 ∧ a + z' = s.length ∧ ZeroRunAt s a z' := by
  by_cases hle : a + z ≤ s.length
  · exact .inr (.inl ((zeroRunAt_append_of_le hle).1 h))
  · cases z with
    | zero => exact .inl rfl
    | succ z =>
      have hend : a + z = s.length := by
        have := h.1
        rw [List.length_append, List.length_singleton] at this
        omega
      obtain ⟨hrun, hb⟩ := (zeroRunAt_append_succ hend).1 h
      exact .inr (.inr ⟨hb, z, rfl, hend, hrun⟩)

/-- What the registers of 44_analyzer.md R174 hold once the scan has read `s`: the longest run that ends where the
scan stands, and the longest run of all. -/
structure ScannedZeros (s : List Bit) (r : ZeroRegs) : Prop where
  cur : ∃ a, a + r.zcur = s.length ∧ ZeroRunAt s a r.zcur
  cur_max : ∀ a z, a + z = s.length → ZeroRunAt s a z → z ≤ r.zcur
  best : ∃ a, ZeroRunAt s a r.zbest
  best_max : ∀ a z, ZeroRunAt s a z → z ≤ r.zbest

theorem scannedZeros_nil : ScannedZeros [] initialZeroRegs where
  cur := ⟨0, rfl, zeroRunAt_zero le_rfl⟩
  cur_max := fun a z _ h => (Nat.le_add_left z a).trans h.1
  best := ⟨0, zeroRunAt_zero le_rfl⟩
  best_max := fun a z h => (Nat.le_add_left z a).trans h.1

theorem zeroRunBit_one (r : ZeroRegs) : zeroRunBit r true = { r with zcur := 0 } := rfl

theorem zeroRunBit_zero (r : ZeroRegs) :
    zeroRunBit r false = { zcur := r.zcur + 1, zbest := max r.zbest (r.zcur + 1) } := by
  simp only [zeroRunBit, Bool.false_eq_true, if_false, ZeroRegs.mk.injEq, true_and]
  split <;> omega

theorem ScannedZeros.one {s : List Bit} {r : ZeroRegs} (h : ScannedZeros s r) :
    ScannedZeros (s ++ [true]) (zeroRunBit r true) where
  cur := ⟨(s ++ [true]).length, rfl, zeroRunAt_zero le_rfl⟩
  cur_max := fun a z hend hrun => by
    rw [List.length_append, List.length_singleton] at hend
    obtain rfl | hrun | ⟨hb, -⟩ := zeroRunAt_append_cases hrun
    · exact le_rfl
    · exact absurd hrun.1 (by omega)
    · exact absurd hb (by decide)
  best := by
    obtain ⟨a, hrun⟩ := h.best
    exact ⟨a, (zeroRunAt_append_of_le hrun.1).2 hrun⟩
  best_max := fun a z hrun => by
    obtain rfl | hrun | ⟨hb, -⟩ := zeroRunAt_append_cases hrun
    · exact Nat.zero_le _
    · exact h.best_max a z hrun
    · exact absurd hb (by decide)

theorem ScannedZeros.zero {s : List Bit} {r : ZeroRegs} (h : ScannedZeros s r) :
    ScannedZeros (s ++ [false]) (zeroRunBit r false) := by
  obtain ⟨⟨a, hend, hcur⟩, hcurMax, ⟨a', hbest⟩, hbestMax⟩ := h
  have hlonger : ZeroRunAt (s ++ [false]) a (r.zcur + 1) := (zeroRunAt_append_succ hend).2 ⟨hcur, rfl⟩
  rw [zeroRunBit_zero]
  refine ⟨⟨a, ?_, hlonger⟩, fun b z hz hrun => ?_, ?_, fun b z hrun => ?_⟩
  · rw [List.length_append, List.length_singleton, ← hend, Nat.add_assoc]
  · rw [List.length_append, List.length_singleton] at hz
    obtain rfl | hrun | ⟨-, z', rfl, hz', hrun⟩ := zeroRunAt_append_cases hrun
    · exact Nat.zero_le _
    · exact absurd hrun.1 (by omega)
    · exact Nat.succ_le_succ (hcurMax b z' hz' hrun)
  · dsimp only
    obtain hmax | hmax := max_choice r.zbest (r.zcur + 1) <;> rw [hmax]
    · exact ⟨a', (zeroRunAt_append_of_le hbest.1).2 hbest⟩
    · exact ⟨a, hlonger⟩
  · obtain rfl | hrun | ⟨-, z', rfl, hz', hrun⟩ := zeroRunAt_append_cases hrun
    · exact Nat.zero_le _
    · exact (hbestMax b z hrun).trans (le_max_left _ _)
    · exact (Nat.succ_le_succ (hcurMax b z' hz' hrun)).trans (le_max_right _ _)

theorem scannedZeros_foldl (s : List Bit) : ScannedZeros s (s.foldl zeroRunBit initialZeroRegs) := by
  induction s using List.reverseRecOn with
  | nil => exact scannedZeros_nil
  | append_singleton s b ih =>
    rw [List.foldl_append, List.foldl_cons, List.foldl_nil]
    cases b with
    | true => exact ih.one
    | false => exact ih.zero

/-! ## `ANALYZE` -/

theorem execAnalyze_of_fits {s : State} (h : Fits s s.bitin.length) :
    exec .analyze s = .next (afterReport s (longestPalindrome s.bitin).1 (longestPalindrome s.bitin).2
      (longestZeroRun s.bitin)) := by
  rw [exec, execAnalyze, runAnalyze, if_pos ((fits_iff_fitsCapacity s _).1 h)]
  rfl

/-- Settles O48: the search downwards finds R171's palindrome, and the scan's registers hold the longest runs. -/
theorem analyzeReportsPalindromeAndZeroRun : Obligations.AnalyzeReportsPalindromeAndZeroRun := by
  refine ⟨decode_encode .analyze, fun s hfits => ⟨_, _, _, execAnalyze_of_fits hfits, ?_⟩⟩
  obtain ⟨hpal, hlongest⟩ := longestPalindrome_isLongestPalindrome s.bitin
  have hscan := scannedZeros_foldl s.bitin
  exact ⟨hpal, hlongest, hscan.best, hscan.best_max⟩

/-! ## The transform `^#c0#c1#...#$` (44_analyzer.md R173), position by position -/

theorem manacherTransform_length (s : List Bit) : (manacherTransform s).length = 2 * s.length + 3 := by
  simp [manacherTransform, Nat.mul_comm]

/-- One bit in front moves what stands after the first `#` two places on. -/
theorem manacherTransform_cons_getElem? (b : Bit) (s : List Bit) (i : Nat) :
    (manacherTransform (b :: s))[i + 3]? = (manacherTransform s)[i + 1]? := rfl

theorem manacherTransform_hash {s : List Bit} {k : Nat} (h : k ≤ s.length) :
    (manacherTransform s)[2 * k + 1]? = some .hash := by
  induction s generalizing k with
  | nil => obtain rfl := Nat.le_zero.1 h; rfl
  | cons b s ih =>
    cases k with
    | zero => rfl
    | succ k => exact (manacherTransform_cons_getElem? b s _).trans (ih (Nat.le_of_succ_le_succ h))

theorem manacherTransform_bit {s : List Bit} {k : Nat} (h : k < s.length) :
    (manacherTransform s)[2 * k + 2]? = s[k]?.map .bit := by
  induction s generalizing k with
  | nil => exact absurd h (Nat.not_lt_zero k)
  | cons b s ih =>
    cases k with
    | zero => rfl
    | succ k => exact (manacherTransform_cons_getElem? b s _).trans (ih (Nat.lt_of_succ_lt_succ h))

theorem manacherTransform_caret {s : List Bit} {i : Nat} (h : (manacherTransform s)[i]? = some .caret) : i = 0 := by
  cases i with
  | zero => rfl
  | succ i =>
    rw [manacherTransform, List.getElem?_cons_succ] at h
    simpa using List.mem_of_getElem? h

theorem manacherTransform_dollar_last (s : List Bit) :
    (manacherTransform s)[2 * s.length + 2]? = some .dollar := by
  induction s with
  | nil => rfl
  | cons b s ih => exact (manacherTransform_cons_getElem? b s _).trans ih

theorem manacherTransform_dollar {s : List Bit} {i : Nat} (h : (manacherTransform s)[i]? = some .dollar) :
    i = 2 * s.length + 2 := by
  induction s generalizing i with
  | nil =>
    obtain _ | _ | _ | i := i
    · cases h
    · cases h
    · rfl
    · cases h
  | cons b s ih =>
    obtain _ | _ | _ | i := i
    · cases h
    · cases h
    · cases h
    · rw [manacherTransform_cons_getElem?] at h
      have := ih h
      rw [List.length_cons]
      omega

/-! ## Radii -/

/-- The characters of `t` mirror one another around `c`, out to distance `r`. -/
def Mirrors (t : List TChar) (c r : Nat) : Prop :=
  ∀ x y, x + y = 2 * c → x ≤ c + r → y ≤ c + r → t[x]? = t[y]?

/-- `r` is the radius of 44_analyzer.md R173 at `c`: a mirroring, inside `t`, that the next characters break. -/
structure IsRadius (t : List TChar) (c r : Nat) : Prop where
  lt : r < c
  mirrors : Mirrors t c r
  breaks : t[c + 1 + r]? ≠ t[c - 1 - r]?

theorem mirrors_zero (t : List TChar) (c : Nat) : Mirrors t c 0 := by
  intro x y hsum hx hy
  obtain rfl : x = y := by omega
  rfl

theorem Mirrors.mono {t : List TChar} {c r r' : Nat} (h : Mirrors t c r) (hle : r' ≤ r) : Mirrors t c r' :=
  fun x y hsum hx hy => h x y hsum (by omega) (by omega)

/-- One expand step that finds equal characters. -/
theorem Mirrors.succ {t : List TChar} {c r : Nat} (h : Mirrors t c r) (hr : r < c)
    (heq : t[c + 1 + r]? = t[c - 1 - r]?) : Mirrors t c (r + 1) := by
  intro x y hsum hx hy
  by_cases hxr : x = c + 1 + r
  · obtain rfl : y = c - 1 - r := by omega
    rw [hxr, heq]
  · by_cases hyr : y = c + 1 + r
    · obtain rfl : x = c - 1 - r := by omega
      rw [hyr, heq]
    · exact h x y hsum (by omega) (by omega)

theorem IsRadius.greatest {t : List TChar} {c r r' : Nat} (h : IsRadius t c r) (h' : Mirrors t c r') : r' ≤ r := by
  have hlt := h.lt
  exact Nat.le_of_not_lt fun hgt => h.breaks (h' _ _ (by omega) (by omega) (by omega))

/-- The mirror step: around `c`, what mirrors at `m` mirrors at `m`'s image `j`, as far as `c`'s mirroring reaches. -/
theorem Mirrors.image {t : List TChar} {c r m j q : Nat} (hc : Mirrors t c r) (hm : Mirrors t m q) (hr : r ≤ c)
    (hsum : m + j = 2 * c) (hcj : c ≤ j) (hq : j + q ≤ c + r) : Mirrors t j q := by
  intro x y hxy hx hy
  calc t[x]? = t[2 * c - x]? := hc _ _ (by omega) (by omega) (by omega)
    _ = t[2 * c - y]? := hm _ _ (by omega) (by omega) (by omega)
    _ = t[y]? := hc _ _ (by omega) (by omega) (by omega)

/-! ## Radii in the transform are palindromes of the string -/

section
variable {s : List Bit} {c r : Nat}

/-- The sentinel `^` ends the expand step on the left. -/
theorem Mirrors.lt_of_transform (h : Mirrors (manacherTransform s) c r) (hc : 0 < c) : r < c := by
  refine Nat.lt_of_not_le fun hle => ?_
  have hcaret : (manacherTransform s)[2 * c]? = some .caret := (h _ 0 (by omega) (by omega) (by omega)).trans rfl
  have := manacherTransform_caret hcaret
  omega

/-- The sentinel `$` ends the expand step on the right. -/
theorem Mirrors.add_le_of_transform (h : Mirrors (manacherTransform s) c r) (hr : r < c) (hc : c ≤ 2 * s.length + 1) :
    c + r ≤ 2 * s.length + 1 := by
  refine Nat.le_of_not_lt fun hlt => ?_
  have hmirror := h (2 * c - (2 * s.length + 2)) (2 * s.length + 2) (by omega) (by omega) (by omega)
  have := manacherTransform_dollar (hmirror.trans (manacherTransform_dollar_last s))
  omega

theorem mirrors_of_palindromeAt {a len : Nat} (h : PalindromeAt s a len) :
    Mirrors (manacherTransform s) (2 * a + len + 1) len := by
  obtain ⟨hfits, hsym⟩ := h
  intro x y hsum hx hy
  obtain ⟨k, rfl | rfl⟩ := Nat.even_or_odd' x
  · obtain ⟨i, rfl⟩ : ∃ i, k = a + i + 1 := ⟨k - (a + 1), by omega⟩
    obtain rfl : y = 2 * (a + len - 1 - i) + 2 := by omega
    rw [Nat.mul_add_one, manacherTransform_bit (by omega), manacherTransform_bit (by omega), hsym i (by omega)]
  · obtain ⟨l, rfl⟩ : ∃ l, y = 2 * l + 1 := ⟨2 * a + len - k, by omega⟩
    rw [manacherTransform_hash (by omega), manacherTransform_hash (by omega)]

theorem Mirrors.palindromeAt {a len : Nat} (hfits : a + len ≤ s.length)
    (h : Mirrors (manacherTransform s) (2 * a + len + 1) len) : PalindromeAt s a len := by
  refine ⟨hfits, fun k hk => ?_⟩
  have hbits := h (2 * (a + k) + 2) (2 * (a + len - 1 - k) + 2) (by omega) (by omega) (by omega)
  rw [manacherTransform_bit (by omega), manacherTransform_bit (by omega)] at hbits
  exact Option.map_injective (fun _ _ => TChar.bit.inj) hbits

/-- A radius leaves off after a `#`, so it is the length of a palindrome whose start the division of R173 finds. -/
theorem IsRadius.start_eq (h : IsRadius (manacherTransform s) c r) (hc : c ≤ 2 * s.length + 1) :
    2 * ((c - 1 - r) / 2) + r + 1 = c := by
  obtain ⟨hlt, hmirrors, hbreaks⟩ := h
  have hright := hmirrors.add_le_of_transform hlt hc
  obtain ⟨k, hk | hk⟩ := Nat.even_or_odd' (c - 1 - r)
  · omega
  · have hend : c + 1 + r = 2 * (k + r + 1) + 1 := by omega
    rw [hk, hend, manacherTransform_hash (by omega), manacherTransform_hash (by omega)] at hbreaks
    exact absurd rfl hbreaks

theorem IsRadius.palindromeAt (h : IsRadius (manacherTransform s) c r) (hc : c ≤ 2 * s.length + 1) :
    PalindromeAt s ((c - 1 - r) / 2) r := by
  have hstart := h.start_eq hc
  have hright := h.mirrors.add_le_of_transform h.lt hc
  refine Mirrors.palindromeAt (by omega) ?_
  rw [hstart]
  exact h.mirrors

end

/-! ## The first loop: the radius array -/

/-- From a mirroring at hand, the expand step finds the radius: the sentinel `^` ends it before the fuel does. -/
theorem expandRadius_isRadius {s : List Bit} {j : Nat} (hj : 0 < j) :
    ∀ {fuel r : Nat}, Mirrors (manacherTransform s) j r → j ≤ fuel + r →
      IsRadius (manacherTransform s) j (expandRadius (manacherTransform s) j fuel r)
  | 0, r, h, hfuel => absurd (h.lt_of_transform hj) (by omega)
  | fuel + 1, r, h, hfuel => by
    have hlt := h.lt_of_transform hj
    rw [expandRadius]
    split
    case isTrue heq => exact expandRadius_isRadius hj (h.succ hlt heq) (by omega)
    case isFalse hne => exact ⟨hlt, h, hne⟩

/-- Where the expand step starts at `j`: the mirror step of 44_analyzer.md R173, or the `P[j]` at hand. -/
def mirrorStart (r : PalRegs) (j : Nat) : Nat :=
  if r.Rt > j then min (r.Rt - j) (r.P.getD (2 * r.C - j) 0) else r.P.getD j 0

/-- The radius a turn of the first loop writes to `P[j]`. -/
def turnRadius (r : PalRegs) (j : Nat) : Nat := expandRadius r.T j r.T.length (mirrorStart r j)

theorem radiusStep_eq (r : PalRegs) (j : Nat) :
    radiusStep r j =
      if j + turnRadius r j > r.Rt then { r with P := r.P.set j (turnRadius r j), C := j, Rt := j + turnRadius r j }
      else { r with P := r.P.set j (turnRadius r j) } := rfl

/-- The registers of 44_analyzer.md R173 after the turns `1` to `m` of the first loop: the radii so far, and a mirroring
around `C` that reaches the right edge `Rt`. -/
structure RadiiUpTo (s : List Bit) (m : Nat) (r : PalRegs) : Prop where
  T_eq : r.T = manacherTransform s
  P_length : r.P.length = 2 * s.length + 3
  radius : ∀ i, 0 < i → i ≤ m → IsRadius (manacherTransform s) i (r.P.getD i 0)
  unset : ∀ i, m < i → r.P.getD i 0 = 0
  reach : Mirrors (manacherTransform s) r.C (r.Rt - r.C)
  center_le : r.C ≤ m
  edge_le : r.Rt ≤ 2 * r.C
  maxLen_eq : r.maxLen = 0
  center_eq : r.center = 0

theorem radiiUpTo_initial (s : List Bit) : RadiiUpTo s 0 (initialPalRegs s) where
  T_eq := rfl
  P_length := List.length_replicate
  radius := fun i hi hi' => absurd hi (by omega)
  unset := fun i _ => by
    rw [initialPalRegs, List.getD_eq_getElem?_getD, List.getElem?_replicate]
    split <;> rfl
  reach := mirrors_zero _ 0
  center_le := le_rfl
  edge_le := le_rfl
  maxLen_eq := rfl
  center_eq := rfl

section
variable {s : List Bit} {m : Nat} {r : PalRegs}

/-- The expand step starts from a mirroring: the part that the palindrome around `C` copies, or nothing. -/
theorem RadiiUpTo.mirrorStart_mirrors (h : RadiiUpTo s m r) :
    Mirrors (manacherTransform s) (m + 1) (mirrorStart r (m + 1)) := by
  rw [mirrorStart]
  split
  case isTrue hlt =>
    have hC := h.center_le
    have hRt := h.edge_le
    have hmirror := (h.radius (2 * r.C - (m + 1)) (by omega) (by omega)).mirrors
    have hstart := Nat.min_le_left (r.Rt - (m + 1)) (r.P.getD (2 * r.C - (m + 1)) 0)
    exact h.reach.image (hmirror.mono (Nat.min_le_right _ _)) (by omega) (by omega) (by omega) (by omega)
  case isFalse =>
    rw [h.unset _ m.lt_succ_self]
    exact mirrors_zero _ _

theorem RadiiUpTo.turnRadius_isRadius (h : RadiiUpTo s m r) (hm : m ≤ 2 * s.length) :
    IsRadius (manacherTransform s) (m + 1) (turnRadius r (m + 1)) := by
  rw [turnRadius, h.T_eq]
  refine expandRadius_isRadius m.succ_pos h.mirrorStart_mirrors ?_
  rw [manacherTransform_length]
  omega

theorem getD_set_self {P : List Nat} {j : Nat} (hj : j < P.length) (v : Nat) : (P.set j v).getD j 0 = v := by
  rw [List.getD_eq_getElem?_getD, List.getElem?_set_self hj, Option.getD_some]

theorem getD_set_ne (P : List Nat) {i j : Nat} (hij : j ≠ i) (v : Nat) : (P.set j v).getD i 0 = P.getD i 0 := by
  rw [List.getD_eq_getElem?_getD, List.getElem?_set_ne hij, List.getD_eq_getElem?_getD]

/-- The array after a turn holds one radius more. -/
theorem RadiiUpTo.set_radius (h : RadiiUpTo s m r) (hm : m ≤ 2 * s.length) {i : Nat} (hi : 0 < i) (hi' : i ≤ m + 1) :
    IsRadius (manacherTransform s) i ((r.P.set (m + 1) (turnRadius r (m + 1))).getD i 0) := by
  by_cases heq : i = m + 1
  · rw [heq, getD_set_self (by rw [h.P_length]; omega)]
    exact h.turnRadius_isRadius hm
  · rw [getD_set_ne _ (Ne.symm heq)]
    exact h.radius i hi (by omega)

theorem RadiiUpTo.turn (h : RadiiUpTo s m r) (hm : m ≤ 2 * s.length) :
    RadiiUpTo s (m + 1) (radiusStep r (m + 1)) := by
  have hnew := h.turnRadius_isRadius hm
  have hlen : (r.P.set (m + 1) (turnRadius r (m + 1))).length = 2 * s.length + 3 := by
    rw [List.length_set, h.P_length]
  have hunset : ∀ i, m + 1 < i → (r.P.set (m + 1) (turnRadius r (m + 1))).getD i 0 = 0 := fun i hi => by
    rw [getD_set_ne _ hi.ne, h.unset i (by omega)]
  rw [radiusStep_eq]
  split
  case isTrue =>
    refine ⟨h.T_eq, hlen, fun i => h.set_radius hm, hunset, ?_, le_rfl, ?_, h.maxLen_eq, h.center_eq⟩
    · rw [Nat.add_sub_cancel_left]
      exact hnew.mirrors
    · have := hnew.lt
      show m + 1 + turnRadius r (m + 1) ≤ 2 * (m + 1)
      omega
  case isFalse =>
    exact ⟨h.T_eq, hlen, fun i => h.set_radius hm, hunset, h.reach, h.center_le.trans m.le_succ, h.edge_le,
      h.maxLen_eq, h.center_eq⟩

end

/-- A loop that runs `j` over `1..N` keeps what each turn carries from `m` turns to `m + 1`. -/
theorem foldl_range'_induction {β : Type} {f : β → Nat → β} {inv : Nat → β → Prop} {N : Nat} {b : β} (h0 : inv 0 b)
    (hstep : ∀ m r, m < N → inv m r → inv (m + 1) (f r (m + 1))) : inv N ((List.range' 1 N).foldl f b) := by
  induction N with
  | zero => exact h0
  | succ N ih =>
    rw [List.range'_1_concat, List.foldl_append, Nat.add_comm 1 N]
    exact hstep N _ N.lt_succ_self (ih fun m r hm => hstep m r (hm.trans N.lt_succ_self))

/-! ## The second loop: the first greatest radius -/

/-- The registers of 44_analyzer.md R173 after the turns `1` to `m` of the second loop. -/
structure BestUpTo (P : List Nat) (m : Nat) (r : PalRegs) : Prop where
  P_eq : r.P = P
  center_le : r.center ≤ m
  found : 0 < r.maxLen → 0 < r.center ∧ P.getD r.center 0 = r.maxLen
  greatest : ∀ i, 0 < i → i ≤ m → P.getD i 0 ≤ r.maxLen
  first : ∀ i, 0 < i → i ≤ m → P.getD i 0 = r.maxLen → r.center ≤ i

theorem bestUpTo_initial {r : PalRegs} (hmax : r.maxLen = 0) (hcenter : r.center = 0) : BestUpTo r.P 0 r where
  P_eq := rfl
  center_le := hcenter.le
  found := fun h => absurd h (by omega)
  greatest := fun i hi hi' => absurd hi (by omega)
  first := fun i hi hi' => absurd hi (by omega)

theorem BestUpTo.turn {P : List Nat} {m : Nat} {r : PalRegs} (h : BestUpTo P m r) :
    BestUpTo P (m + 1) (bestStep r (m + 1)) := by
  obtain ⟨rfl, hcenter, hfound, hmax, hfirst⟩ := h
  rw [bestStep]
  split
  case isTrue hgt =>
    refine ⟨rfl, le_rfl, fun _ => ⟨m.succ_pos, rfl⟩, fun i hi hi' => ?_,
      fun i hi hi' (heq : r.P.getD i 0 = r.P.getD (m + 1) 0) => ?_⟩
    · rcases Nat.le_succ_iff.1 hi' with hi' | rfl
      · exact (hmax i hi hi').trans hgt.le
      · exact le_rfl
    · rcases Nat.le_succ_iff.1 hi' with hi' | rfl
      · exact absurd (heq ▸ hmax i hi hi') hgt.not_ge
      · exact le_rfl
  case isFalse hle =>
    refine ⟨rfl, hcenter.trans m.le_succ, hfound, fun i hi hi' => ?_, fun i hi hi' heq => ?_⟩
    · rcases Nat.le_succ_iff.1 hi' with hi' | rfl
      · exact hmax i hi hi'
      · exact Nat.le_of_not_lt hle
    · rcases Nat.le_succ_iff.1 hi' with hi' | rfl
      · exact hfirst i hi hi' heq
      · exact hcenter.trans m.le_succ

/-! ## The engine's result -/

/-- A string with a bit has a palindrome of one bit. -/
theorem palindromeAt_zero_one {s : List Bit} (hs : s ≠ []) : PalindromeAt s 0 1 := by
  refine ⟨Nat.zero_add 1 ▸ List.length_pos_iff.2 hs, fun k hk => ?_⟩
  obtain rfl := Nat.lt_one_iff.1 hk
  rfl

/-- What the engine's registers hold at the end: the first greatest of the radii at `1` to `2n + 1`. -/
theorem manacherRegs_best (s : List Bit) :
    ∃ P : List Nat, (∀ i, 0 < i → i ≤ 2 * s.length + 1 → IsRadius (manacherTransform s) i (P.getD i 0)) ∧
      BestUpTo P (2 * s.length + 1) (manacherRegs s) := by
  have hradii := foldl_range'_induction (N := 2 * s.length + 1) (radiiUpTo_initial s)
    fun m r hm h => h.turn (Nat.le_of_lt_succ hm)
  exact ⟨_, hradii.radius, foldl_range'_induction (bestUpTo_initial hradii.maxLen_eq hradii.center_eq)
    fun m r _ h => h.turn⟩

section
variable {s : List Bit} {P : List Nat} {r : PalRegs}
  (hradius : ∀ i, 0 < i → i ≤ 2 * s.length + 1 → IsRadius (manacherTransform s) i (P.getD i 0))
  (hbest : BestUpTo P (2 * s.length + 1) r)
include hradius hbest

/-- The radius at a palindrome's centre is at least its length, so no palindrome beats `maxLen`, and one as long has
its centre no earlier than `center`. -/
theorem BestUpTo.palindromeAt_le {a len : Nat} (hpal : PalindromeAt s a len) :
    len ≤ r.maxLen ∧ (len = r.maxLen → r.center ≤ 2 * a + len + 1) := by
  have hc : 2 * a + len + 1 ≤ 2 * s.length + 1 := by have := hpal.1; omega
  have hlen := (hradius _ (Nat.succ_pos _) hc).greatest (mirrors_of_palindromeAt hpal)
  have hmax := hbest.greatest _ (Nat.succ_pos _) hc
  exact ⟨hlen.trans hmax, fun heq => hbest.first _ (Nat.succ_pos _) hc (le_antisymm hmax (heq ▸ hlen))⟩

theorem BestUpTo.isLongestPalindrome (hs : s ≠ []) :
    IsLongestPalindrome s ((r.center - 1 - r.maxLen) / 2) r.maxLen := by
  have hpos : 1 ≤ r.maxLen := (hbest.palindromeAt_le hradius (palindromeAt_zero_one hs)).1
  obtain ⟨hcenter, hmaxLen⟩ := hbest.found hpos
  have hrad : IsRadius (manacherTransform s) r.center r.maxLen := hmaxLen ▸ hradius _ hcenter hbest.center_le
  have hstart := hrad.start_eq hbest.center_le
  refine ⟨hrad.palindromeAt hbest.center_le, fun a len hpal => ?_⟩
  obtain ⟨hle, hfirst⟩ := hbest.palindromeAt_le hradius hpal
  refine ⟨hle, fun heq => ?_⟩
  have := hfirst heq
  omega

end

theorem manacher_isLongestPalindrome {s : List Bit} (hs : s ≠ []) :
    IsLongestPalindrome s (manacher s).1 (manacher s).2 := by
  obtain ⟨P, hradius, hbest⟩ := manacherRegs_best s
  rw [manacher, if_neg (mt List.length_eq_zero_iff.1 hs)]
  exact hbest.isLongestPalindrome hradius hs

/-- Settles O50: the engine's first greatest radius is the longest palindrome at its earliest start, and there is one
such. -/
theorem manacherEngineFindsLongestPalindrome : Obligations.ManacherEngineFindsLongestPalindrome := by
  intro s
  cases s with
  | nil => rfl
  | cons b s =>
    exact (manacher_isLongestPalindrome (List.cons_ne_nil b s)).unique (longestPalindrome_isLongestPalindrome _)

end Sys2Proof.Machine
end

section
/-!
PROOFS about the host's text functions (45_host_frontend.md): `parseBinary` reads back the characters of bits (R191),
and `parseAnalogSamples` sees the joined tokens again, each trimmed (R192).
-/

namespace Sys2Proof.Machine

open Sys2Proof.Spec

/-! ## `parseBinary` (45_host_frontend.md R191) -/

theorem bitOfChr_eq_some_iff {ch : Char} {b : Bit} : bitOfChr ch = some b ↔ ch = chrOfBit b := by
  rw [bitOfChr]
  split_ifs with h0 h1
  · subst h0
    cases b <;> decide
  · subst h1
    cases b <;> decide
  · cases b
    · simpa [chrOfBit] using h0
    · simpa [chrOfBit] using h1

theorem bitOfChr_eq_none_iff {ch : Char} : bitOfChr ch = none ↔ ch ≠ '0' ∧ ch ≠ '1' := by
  rw [bitOfChr]
  split_ifs with h0 h1
  · simp [h0]
  · simp [h1]
  · simp [h0, h1]

theorem mapM_bitOfChr_eq_some_iff {text : List Char} {bits : List Bit} :
    text.mapM bitOfChr = some bits ↔ text = bits.map chrOfBit := by
  induction text generalizing bits with
  | nil => cases bits <;> simp
  | cons ch text ih => cases bits <;> simp [Option.bind_eq_some_iff, bitOfChr_eq_some_iff, ih]

theorem exists_mem_of_mapM_bitOfChr_eq_none {text : List Char} (h : text.mapM bitOfChr = none) :
    ∃ ch ∈ text, ch ≠ '0' ∧ ch ≠ '1' := by
  induction text with
  | nil => simp at h
  | cons ch text ih =>
    cases hch : bitOfChr ch with
    | none => exact ⟨ch, List.mem_cons_self, bitOfChr_eq_none_iff.1 hch⟩
    | some b =>
      have htail : text.mapM bitOfChr = none := Option.eq_none_iff_forall_ne_some.2 (by simpa [hch] using h)
      obtain ⟨bad, hmem, hbad⟩ := ih htail
      exact ⟨bad, List.mem_cons_of_mem ch hmem, hbad⟩

theorem parseBinary_of_ne_nil {text : List Char} (h : text ≠ []) :
    parseBinary text = (text.mapM bitOfChr).elim (.error .invalidBitString) .ok := by
  cases text with
  | nil => exact absurd rfl h
  | cons ch text =>
    rw [parseBinary]
    cases (ch :: text).mapM bitOfChr <;> rfl

/-- Settles O56: a character stands for at most one bit, and a text with no such bits holds a character that stands for
none. -/
theorem parseBinaryAcceptsZerosAndOnes : Obligations.ParseBinaryAcceptsZerosAndOnes := by
  intro text
  rcases eq_or_ne text [] with rfl | htext
  · exact ⟨by simp [parseBinary], fun e he => ⟨by simpa [parseBinary] using he.symm, .inl rfl⟩⟩
  rw [parseBinary_of_ne_nil htext]
  cases hbits : text.mapM bitOfChr with
  | none =>
    refine ⟨fun bits => ?_, fun e he => ?_⟩
    · simp [← mapM_bitOfChr_eq_some_iff, hbits]
    · exact ⟨(Except.error.inj he).symm, .inr (exists_mem_of_mapM_bitOfChr_eq_none hbits)⟩
  | some read =>
    refine ⟨fun bits => ?_, fun e he => nomatch he⟩
    simp [← mapM_bitOfChr_eq_some_iff, hbits, htext]

/-! ## `parseAnalogSamples` (45_host_frontend.md R192) -/

theorem splitText_ne_nil (sep : Char) (text : List Char) : splitText sep text ≠ [] := by
  cases text with
  | nil => simp [splitText]
  | cons c cs =>
    rw [splitText]
    cases splitText sep cs with
    | nil => simp
    | cons piece pieces => by_cases hc : c = sep <;> simp [hc]

theorem splitText_sep_cons (sep : Char) (text : List Char) :
    splitText sep (sep :: text) = [] :: splitText sep text := by
  rw [splitText]
  cases h : splitText sep text with
  | nil => exact absurd h (splitText_ne_nil sep text)
  | cons piece pieces => simp

theorem splitText_cons_of_ne {sep c : Char} {text piece : List Char} {pieces : List (List Char)} (hc : c ≠ sep)
    (h : splitText sep text = piece :: pieces) : splitText sep (c :: text) = (c :: piece) :: pieces := by
  simp [splitText, h, hc]

theorem splitText_append_of_notMem {sep : Char} {tk text piece : List Char} {pieces : List (List Char)}
    (htk : sep ∉ tk) (h : splitText sep text = piece :: pieces) :
    splitText sep (tk ++ text) = (tk ++ piece) :: pieces := by
  induction tk with
  | nil => exact h
  | cons c tk ih =>
    obtain ⟨hc, htk⟩ := List.ne_and_not_mem_of_not_mem_cons htk
    exact splitText_cons_of_ne hc.symm (ih htk)

/-- Splitting undoes joining, for pieces without the separator. -/
theorem splitText_intercalate {sep : Char} {tokens : List (List Char)} (hne : tokens ≠ [])
    (hsep : ∀ tk ∈ tokens, sep ∉ tk) : splitText sep ([sep].intercalate tokens) = tokens := by
  induction tokens with
  | nil => exact absurd rfl hne
  | cons tk rest ih =>
    obtain ⟨htk, hrest⟩ := List.forall_mem_cons.1 hsep
    rcases eq_or_ne rest [] with rfl | hne'
    · simpa using splitText_append_of_notMem htk (show splitText sep [] = [[]] from rfl)
    · rw [List.intercalate_cons_of_ne_nil hne', List.append_assoc, List.singleton_append,
        splitText_append_of_notMem htk (splitText_sep_cons sep _), ih hne' hrest, List.append_nil]

theorem trimText_eq (text : List Char) :
    trimText text = (text.dropWhile Char.isWhitespace).rdropWhile Char.isWhitespace := rfl

theorem head?_dropWhile_eq_some {p : Char → Bool} {text : List Char} {ch : Char}
    (h : (text.dropWhile p).head? = some ch) : p ch = false := by
  simpa [h] using List.head?_dropWhile_not p text

theorem isTrimOf_trimText (text : List Char) : IsTrimOf text (trimText text) := by
  refine ⟨text.takeWhile Char.isWhitespace, (text.dropWhile Char.isWhitespace).rtakeWhile Char.isWhitespace, ?_,
    fun _ => List.mem_takeWhile_imp, fun _ => List.mem_rtakeWhile_imp, fun ch h => ?_, fun ch h => ?_⟩
  · rw [trimText_eq, List.append_assoc, List.rdropWhile_append_rtakeWhile, List.takeWhile_append_dropWhile]
  · obtain ⟨rest, hrest⟩ := List.rdropWhile_prefix Char.isWhitespace (text.dropWhile Char.isWhitespace)
    refine head?_dropWhile_eq_some (text := text) ?_
    rw [← hrest, List.head?_append, ← trimText_eq, h]
    rfl
  · rw [trimText, List.getLast?_reverse] at h
    exact head?_dropWhile_eq_some h

theorem parseAnalogSamples_eq (spelling : List Char → Option R) (csv : List Char) :
    parseAnalogSamples spelling csv =
      if spelledValues spelling ((splitText ',' csv).map trimText) = [] then .error .emptyInput
      else .ok (spelledValues spelling ((splitText ',' csv).map trimText)) := by
  have hfilter (tokens : List (List Char)) :
      (tokens.filter fun tk => !tk.isEmpty) = tokens.filter fun tk => tk ≠ [] :=
    List.filter_congr fun tk _ => by cases tk <;> rfl
  rw [parseAnalogSamples, hfilter, ← spelledValues]
  cases spelledValues spelling ((splitText ',' csv).map trimText) <;> rfl

/-- Settles O57: splitting gives back the tokens that were joined, and `trimText` trims each. -/
theorem parseAnalogSamplesSkipsBadTokens : Obligations.ParseAnalogSamplesSkipsBadTokens := by
  intro spelling tokens hne hcomma
  refine ⟨tokens.map trimText, ?_, ?_⟩
  · exact List.forall₂_map_right_iff.2 (List.forall₂_same.2 fun tk _ => isTrimOf_trimText tk)
  · rw [parseAnalogSamples_eq, splitText_intercalate hne hcomma]

end Sys2Proof.Machine
end

section
/-!
PROOFS about the failures (60_exceptions.md): which steps stop the machine, what a failed command leaves (R207), and the
causes of the codes 4 (R203), 5 (R204), 6 (R205) and 8 (R206).
-/

namespace Sys2Proof.Machine

open Sys2Proof.Spec

theorem raise_eq_afterFailure (f : Failure) (s : State) : raise f s = afterFailure s (failureCode f) := rfl

/-! ## What a failed command leaves (60_exceptions.md R207) -/

/-- Settles O16: of the four ways a command ends, the three that complete leave `STATUS` 0. -/
theorem failureLeavesOnlyItsCode : Obligations.FailureLeavesOnlyItsCode := by
  intro i s t h hstatus
  cases exec_ends h with
  | failed f _ _ ht => rw [ht, raise_status, raise_eq_afterFailure]
  | bits _ _ ht | wave _ _ _ ht | report _ _ _ ht => exact absurd (congrArg State.status ht) hstatus

/-! ## Reserved words (60_exceptions.md R205) -/

theorem runCommand_of_decode_error {f : Frame} {r : Reject} (h : decode f.cw = .error r) (s : State) :
    runCommand f s = .next (illegalCommand s) := by
  rw [runCommand, h]

/-- Settles O4: a reserved word is one the decoder rejects, and a step takes a rejected word's failure. -/
theorem reservedWordIsIllegalCommand : Obligations.ReservedWordIsIllegalCommand := by
  intro s f hframe hreserved
  obtain ⟨r, hreject⟩ := (reservedWord_iff_decode_eq_error f.cw).1 hreserved
  rw [step_of_frame hframe, runCommand_of_decode_error hreject, illegalCommand, failingCommand_eq,
    raise_eq_afterFailure]
  rfl

/-! ## What stops the machine -/

/-- With a frame presented, every command answers a next state: a failure is one too. -/
theorem exec_next_of_frame (i : Instr) {s : State} {f : Frame} (h : s.frame = some f) : ∃ t, exec i s = .next t := by
  cases i
  case pcm => exact ⟨_, exec_pcm_of_frame h⟩
  case dm => exact ⟨_, exec_dm_of_frame h⟩
  all_goals exact ⟨_, rfl⟩

theorem step_next_of_frame {s : State} {f : Frame} (h : s.frame = some f) : ∃ t, step s = .next t := by
  rw [step_of_frame h]
  cases hdecode : decode f.cw with
  | ok i => exact runCommand_of_decode_ok hdecode s ▸ exec_next_of_frame i h
  | error r => exact ⟨_, runCommand_of_decode_error hdecode s⟩

theorem exists_readElement_of_lt {x : Buffer} {k : Nat} {s : State} (h : k < bufferLength x s) :
    ∃ v, readElement x k s = some v := by
  cases x <;> exact ⟨_, congrArg (Option.map _) (List.getElem?_eq_getElem h)⟩

/-- The one host operation that can fail to answer a next state is the read of an element past the end. -/
theorem performHostOp_next_or_fault (op : HostOp) (s : State) :
    (∃ t, performHostOp op s = .next t) ∨
      ∃ x k, op = .read (.element x k) ∧ bufferLength x s ≤ k ∧ performHostOp op s = .fault (.noSuchElement x k) := by
  cases op with
  | read r =>
    cases r with
    | element x k =>
      rcases Nat.lt_or_ge k (bufferLength x s) with hlt | hge
      · obtain ⟨v, hv⟩ := exists_readElement_of_lt hlt
        exact .inl ⟨_, hostRead_element hv⟩
      · exact .inr ⟨x, k, rfl, hge, hostRead_element_past_end hge⟩
    | length | contents | rptPalStart | rptPalLen | rptZrun | status => exact .inl ⟨_, rfl⟩
  | writeBitin | writeSampin | writeWavein | xferB | xferW | issue | reset => exact .inl ⟨_, rfl⟩

/-- A step answers a next state, or faults at a host read past a buffer's end. -/
theorem step_next_or_fault (s : State) :
    (∃ t, step s = .next t) ∨
      ∃ x k rest, s.frame = none ∧ s.schedule = .read (.element x k) :: rest ∧ bufferLength x s ≤ k ∧
        step s = .fault (.noSuchElement x k) := by
  cases hframe : s.frame with
  | some f => exact .inl (step_next_of_frame hframe)
  | none =>
    cases hschedule : s.schedule with
    | nil => exact .inl ⟨s, step_of_schedule_nil hframe hschedule⟩
    | cons op rest =>
      rw [step_of_schedule_cons hframe hschedule]
      rcases performHostOp_next_or_fault op { s with schedule := rest } with hnext | ⟨x, k, rfl, hlen, hfault⟩
      · exact .inl hnext
      · exact .inr ⟨x, k, rest, rfl, rfl, hlen, hfault⟩

/-- Settles O13: a next state is neither a refusal nor a fault, and the one fault left is the read's. -/
theorem noCommandStopsTheMachine : Obligations.NoCommandStopsTheMachine := by
  refine ⟨fun s r h => ?_, fun s e h => ?_⟩
  · rcases step_next_or_fault s with ⟨t, hnext⟩ | ⟨x, k, rest, -, -, -, hfault⟩
    · cases hnext.symm.trans h
    · cases hfault.symm.trans h
  rcases step_next_or_fault s with ⟨t, hnext⟩ | ⟨x, k, rest, hframe, hschedule, hlen, hfault⟩
  · cases hnext.symm.trans h
  · exact ⟨x, k, rest, hframe, hschedule, hlen, Host.Outcome.fault.inj (h.symm.trans hfault)⟩

/-! ## Encodings with no operation (60_exceptions.md R203, R204) -/

/-- Settles O51: each word is its command's table word, and each command is the same failing command. -/
theorem scrambledNonAmiEncodingFails : Obligations.ScrambledNonAmiEncodingFails := by
  intro w i hmem
  simp only [List.mem_cons, Prod.mk.injEq, List.not_mem_nil, or_false] at hmem
  rcases hmem with ⟨rfl, rfl⟩ | ⟨rfl, rfl⟩ | ⟨rfl, rfl⟩ | ⟨rfl, rfl⟩ | ⟨rfl, rfl⟩ | ⟨rfl, rfl⟩ | ⟨rfl, rfl⟩ |
      ⟨rfl, rfl⟩ <;>
    exact ⟨rfl, fun s => congrArg Host.Outcome.next (failingCommand_eq .unsupportedCombination s)⟩

/-- Settles O52: the ten words as the eight of R203, and the shared frame's check of an empty `WAVEIN`. -/
theorem decodingWithoutInverseFails : Obligations.DecodingWithoutInverseFails := by
  refine ⟨fun w i hmem => ?_, fun i s hmem hwave => ?_⟩
  · simp only [List.mem_cons, Prod.mk.injEq, List.not_mem_nil, or_false] at hmem
    rcases hmem with ⟨rfl, rfl⟩ | ⟨rfl, rfl⟩ | ⟨rfl, rfl⟩ | ⟨rfl, rfl⟩ | ⟨rfl, rfl⟩ | ⟨rfl, rfl⟩ | ⟨rfl, rfl⟩ |
        ⟨rfl, rfl⟩ | ⟨rfl, rfl⟩ | ⟨rfl, rfl⟩ <;>
      exact ⟨rfl, fun s => congrArg Host.Outcome.next (failingCommand_eq .unsupportedDecode s)⟩
  · obtain ⟨seed, interval, hexec⟩ := exec_dec_eq_decFrame hmem
    rw [hexec, decFrame_nil_eq seed interval s hwave, raise_eq_afterFailure]
    rfl

/-! ## Capacity (60_exceptions.md R206) -/

/-- Settles O54: the input check is `ANALYZE`'s only one, and fails. -/
theorem analyzeCapacity : Obligations.AnalyzeCapacity := by
  intro s hfits
  rw [exec, execAnalyze, runAnalyze, if_neg (mt (fits_iff_fitsCapacity s _).2 hfits)]
  rfl

/-- Code 8 is `CapacityExceeded`'s alone (60_exceptions.md R200). -/
theorem raise_status_ne {f : Failure} (hf : f ≠ .capacityExceeded) (s : State) : (raise f s).status ≠ 8 := by
  rw [raise_status]
  cases f
  case capacityExceeded => exact absurd rfl hf
  all_goals decide

theorem complete_status_ne (s : State) : (complete s).status ≠ 8 := by
  rw [complete_status]
  decide

section
variable {s : State} (hmax : s.config.nmax = none)
include hmax

theorem fitsCapacity_of_nmax_none (n : Nat) : fitsCapacity s.config n = true := by
  rw [fitsCapacity, hmax]

theorem commitBits_status_ne_of_nmax_none (out : List Bit) (w : Work) :
    (commitBits out (loadWork w (clearResults s))).status ≠ 8 := by
  rw [commitBits_eq _ _ rfl, loadWork_config, clearResults_config, if_pos (fitsCapacity_of_nmax_none hmax _)]
  exact complete_status_ne _

theorem runPcm_status_ne_of_nmax_none (a : Args) : (runPcm a s).status ≠ 8 := by
  rw [runPcm, if_pos (fitsCapacity_of_nmax_none hmax _)]
  split
  · exact commitBits_status_ne_of_nmax_none hmax _ _
  · exact raise_status_ne (by decide) _

theorem runDm_status_ne_of_nmax_none (a : Args) : (runDm a s).status ≠ 8 := by
  rw [runDm, if_pos (fitsCapacity_of_nmax_none hmax _)]
  split
  · split
    · exact raise_status_ne (by decide) _
    · exact commitBits_status_ne_of_nmax_none hmax _ _
  · exact raise_status_ne (by decide) _

theorem runAnalyze_status_ne_of_nmax_none : (runAnalyze s).status ≠ 8 := by
  rw [runAnalyze, if_pos (fitsCapacity_of_nmax_none hmax _)]
  exact complete_status_ne _

theorem encFrame_status_ne_of_nmax_none (body : List Bit → Emit) : (encFrame body s).status ≠ 8 := by
  rw [encFrame_eq, if_pos ⟨fitsCapacity_of_nmax_none hmax _, fitsCapacity_of_nmax_none hmax _⟩]
  exact complete_status_ne _

theorem decFrame_status_ne_of_nmax_none (seed : (R → R) → Option Sgn)
    (interval : (R → R) → DecRegs → DecRegs × Bit) : (decFrame seed interval s).status ≠ 8 := by
  cases hwave : s.wavein with
  | nil =>
    rw [decFrame_nil_eq seed interval s hwave]
    exact raise_status_ne (by decide) _
  | cons p ps =>
    rw [decFrame_cons_eq seed interval s p ps hwave,
      if_pos ⟨fitsCapacity_of_nmax_none hmax _, fitsCapacity_of_nmax_none hmax _⟩]
    exact complete_status_ne _

end

/-- Settles O55: every capacity check passes, and no command raises `CapacityExceeded` for anything else. -/
theorem unboundedNeverExceedsCapacity : Obligations.UnboundedNeverExceedsCapacity := by
  intro i s t hmax h
  cases i
  case pcm =>
    cases hframe : s.frame with
    | none => cases (execPcm_no_frame hframe).symm.trans h
    | some f =>
      rw [exec_pcm_of_frame hframe] at h
      exact Host.Outcome.next.inj h ▸ runPcm_status_ne_of_nmax_none hmax f.args
  case dm =>
    cases hframe : s.frame with
    | none => cases (execDm_no_frame hframe).symm.trans h
    | some f =>
      rw [exec_dm_of_frame hframe] at h
      exact Host.Outcome.next.inj h ▸ runDm_status_ne_of_nmax_none hmax f.args
  case analyze => exact Host.Outcome.next.inj h ▸ runAnalyze_status_ne_of_nmax_none hmax
  case encNrzl | encNrzi | encMan | encDman | encAmi | encAmiB8zs | encAmiHdb3 =>
    exact Host.Outcome.next.inj h ▸ encFrame_status_ne_of_nmax_none hmax _
  case decNrzl | decNrzi | decMan | decDman | decAmi =>
    exact Host.Outcome.next.inj h ▸ decFrame_status_ne_of_nmax_none hmax _ _
  all_goals exact Host.Outcome.next.inj h ▸ raise_status_ne (by decide) _

end Sys2Proof.Machine
end

section
/-!
PROOFS about reset and hazards (70_reset_and_hazards.md): the reset event (R230), and that no command depends on earlier
ones (R231, R235).
-/

namespace Sys2Proof.Machine

/-! ## The reset event -/

/-- Settles O12: the step performs the scheduled operation, and the reset event rewrites the state in one update. -/
theorem resetEventRestoresTheTable : Obligations.ResetEventRestoresTheTable :=
  fun _ _ hframe hschedule => step_of_schedule_cons hframe hschedule

/-! ## No hazard through earlier commands -/

/-- `s` with another past: the frame, the input buffers and `NMAX` of `s`, and the results, `STATUS`, working registers
and host's side of `p`. -/
def withPast (p s : State) : State :=
  { p with config := s.config, frame := s.frame, bitin := s.bitin, sampin := s.sampin, wavein := s.wavein }

/-- `t` with the schedule and the reads of `p`, which no command touches. -/
def withHostSide (p t : State) : State := { t with schedule := p.schedule, seen := p.seen }

/-- Two states that agree on what a command reads differ in their pasts only. -/
theorem eq_withPast {s s' : State} (hframe : s.frame = s'.frame) (hbitin : s.bitin = s'.bitin)
    (hsampin : s.sampin = s'.sampin) (hwavein : s.wavein = s'.wavein) (hconfig : s.config = s'.config) :
    s' = withPast s' s := by
  rw [withPast, hframe, hbitin, hsampin, hwavein, hconfig]

section
variable (p s : State)

theorem failingCommand_withPast (f : Failure) :
    failingCommand f (withPast p s) = withHostSide p (failingCommand f s) := rfl

theorem commitBits_withPast (out : List Bit) (w : Work) :
    commitBits out (loadWork w (clearResults (withPast p s))) =
      withHostSide p (commitBits out (loadWork w (clearResults s))) := by
  rw [commitBits_eq _ _ rfl, commitBits_eq _ _ rfl, apply_ite (withHostSide p)]
  rfl

theorem encFrame_withPast (body : List Bit → Emit) :
    encFrame body (withPast p s) = withHostSide p (encFrame body s) := by
  rw [encFrame_eq, encFrame_eq, apply_ite (withHostSide p)]
  rfl

theorem decFrame_withPast (seed : (R → R) → Option Sgn) (interval : (R → R) → DecRegs → DecRegs × Bit) :
    decFrame seed interval (withPast p s) = withHostSide p (decFrame seed interval s) := by
  cases hwave : s.wavein with
  | nil =>
    rw [decFrame_nil_eq _ _ s hwave, decFrame_nil_eq _ _ (withPast p s) hwave]
    rfl
  | cons q qs =>
    rw [decFrame_cons_eq _ _ s q qs hwave, decFrame_cons_eq _ _ (withPast p s) q qs hwave,
      apply_ite (withHostSide p)]
    rfl

theorem runAnalyze_withPast : runAnalyze (withPast p s) = withHostSide p (runAnalyze s) := by
  rw [runAnalyze, runAnalyze, apply_ite (withHostSide p)]
  rfl

theorem runPcm_withPast (a : Args) : runPcm a (withPast p s) = withHostSide p (runPcm a s) := by
  rw [runPcm, runPcm, commitBits_withPast, apply_ite (withHostSide p), apply_ite (withHostSide p)]
  rfl

theorem runDm_withPast (a : Args) : runDm a (withPast p s) = withHostSide p (runDm a s) := by
  have hsampin : (withPast p s).sampin = s.sampin := rfl
  rw [runDm, runDm, hsampin, apply_ite (withHostSide p), apply_ite (withHostSide p)]
  cases s.sampin with
  | nil => rfl
  | cons x xs =>
    rw [← commitBits_withPast]
    rfl

end

/-- A command starts afresh: with another past it ends in the same state, but for the host's side it leaves alone. -/
theorem exec_withPast (p : State) {i : Instr} {s t : State} (h : exec i s = .next t) :
    exec i (withPast p s) = .next (withHostSide p t) := by
  cases i
  case pcm =>
    cases hframe : s.frame with
    | none => cases (execPcm_no_frame hframe).symm.trans h
    | some f =>
      obtain rfl := Host.Outcome.next.inj ((exec_pcm_of_frame hframe).symm.trans h)
      rw [exec_pcm_of_frame (s := withPast p s) hframe, runPcm_withPast]
  case dm =>
    cases hframe : s.frame with
    | none => cases (execDm_no_frame hframe).symm.trans h
    | some f =>
      obtain rfl := Host.Outcome.next.inj ((exec_dm_of_frame hframe).symm.trans h)
      rw [exec_dm_of_frame (s := withPast p s) hframe, runDm_withPast]
  all_goals obtain rfl := Host.Outcome.next.inj h
  case analyze => exact congrArg Host.Outcome.next (runAnalyze_withPast p s)
  case encNrzl | encNrzi | encMan | encDman | encAmi | encAmiB8zs | encAmiHdb3 =>
    exact congrArg Host.Outcome.next (encFrame_withPast p s _)
  case decNrzl | decNrzi | decMan | decDman | decAmi => exact congrArg Host.Outcome.next (decFrame_withPast p s _ _)
  all_goals exact congrArg Host.Outcome.next (failingCommand_withPast p s _)

/-- Settles O17: the two states differ in their pasts only, and the end states in the host's side only. -/
theorem resultsIgnoreEarlierCommands : Obligations.ResultsIgnoreEarlierCommands := by
  intro i s s' t hframe hbitin hsampin hwavein hconfig h
  refine ⟨withHostSide s' t, ?_, rfl, rfl, rfl, rfl, rfl, rfl⟩
  calc exec i s'
    _ = exec i (withPast s' s) := congrArg (exec i) (eq_withPast hframe hbitin hsampin hwavein hconfig)
    _ = .next (withHostSide s' t) := exec_withPast s' h

end Sys2Proof.Machine
end
